-- ==== Sys2Proof/Word.lean ====
section
/-! DEFINITION. The bus word and the byte (spec/20_memory.md R33, spec/10_state.md R19). -/

namespace Sys2Proof

/-- A 32-bit bus word: the only width the register window answers (R33, R35). -/
abbrev Word := BitVec 32

/-- A byte of the byte buffer, of an encoding or of a random draw (R14, R19, R47). -/
abbrev Byte := BitVec 8

end Sys2Proof
end

