-- ==== Sys2Proof/Config.lean ====
section
/-! DEFINITION. The configuration record of spec/00_scope.md R6 and the one value the spec leaves free
(R127). The parameters that follow from the record by a formula stand in Machine/Params.lean. -/

namespace Sys2Proof

/-- The given and open parameters of R6. The machine holds one such record and no step changes it.
`LAT(op)` is not a parameter here: a command completes at any later turn of the core (R130; log 8). -/
structure Config where
  /-- The field modulus `P`. -/
  P : Nat
  /-- The field bit-width `W`. -/
  W : Nat
  /-- Bits per limb, `LIMB_BITS`. -/
  limbBits : Nat
  /-- The bus address of offset 0 of the register window, `BASE` (open: D4). -/
  base : Nat
deriving DecidableEq, Repr

/-- The document's worked modulus, R8's example `TOY13`. -/
def Config.toy13 : Config := { P := 13, W := 4, limbBits := 8, base := 0 }

/-- R8's example `P384`. PRESUMED (log 3): the modulus is the NIST prime the spec takes from general knowledge (G1). -/
def Config.p384 : Config :=
  { P := 2 ^ 384 - 2 ^ 128 - 2 ^ 96 + 2 ^ 32 - 1, W := 384, limbBits := 64, base := 0 }

/-- FREE VALUE (log 5): the word the `n`-th read of a data window while `BUSY = 1` returns. R127: "In the model each
such read returns a value from an oracle." It has no body, so no proof can use a value of it. -/
opaque Config.busyRead : Nat → Word

end Sys2Proof
end

