-- ==== Sys2Proof/Syntax.lean ====
section
/-! DEFINITION. The commands of spec/opcode_table.json, one constructor a row, and the fields of a command word
(spec/30_encoding.md R50-R56). -/

namespace Sys2Proof

/-- The 4-bit index of a field-element register `f0`-`f15` (R54): all 16 values are legal. -/
abbrev FReg := Fin 16

/-- One constructor for each of the 20 rows of R56; the operands are the fields its format uses (R53). -/
inductive Instr where
  | fromBe (rd : FReg)
  | fromLe (rd : FReg)
  | toBe (rs1 : FReg)
  | toLe (rs1 : FReg)
  | fromUint (rd : FReg)
  | isZero (rs1 : FReg)
  | eq (rs1 rs2 : FReg)
  | isOdd (rs1 : FReg)
  | gt (rs1 rs2 : FReg)
  | lt (rs1 rs2 : FReg)
  | dbl (rd rs1 : FReg)
  | sqr (rd rs1 : FReg)
  | seli (rd rs1 rs2 : FReg) (ci : Bool)
  | selr (rd rs1 rs2 : FReg)
  | add (rd rs1 rs2 : FReg)
  | sub (rd rs1 rs2 : FReg)
  | mul (rd rs1 rs2 : FReg)
  | neg (rd rs1 : FReg)
  | inv (rd rs1 : FReg)
  | rand (rd : FReg)
deriving DecidableEq, Repr

/-- The six formats of R53. -/
inductive Format where
  | r | s | ss | rs | rss | rssc
deriving DecidableEq, Repr

def Format.usesRd : Format → Bool
  | .r | .rs | .rss | .rssc => true
  | .s | .ss => false

def Format.usesRs1 : Format → Bool
  | .s | .ss | .rs | .rss | .rssc => true
  | .r => false

def Format.usesRs2 : Format → Bool
  | .ss | .rss | .rssc => true
  | .r | .s | .rs => false

def Format.usesCi : Format → Bool
  | .rssc => true
  | .r | .s | .ss | .rs | .rss => false

/-- The fields of a command word, whether or not the word is legal (R51). -/
structure RawCmd where
  op : BitVec 8
  rd : BitVec 4
  rs1 : BitVec 4
  rs2 : BitVec 4
  ci : BitVec 1
  reserved : BitVec 11
deriving DecidableEq, Repr

/-- The opcode map of R56: the format of each of the 20 assigned opcodes. -/
def Format.ofOpcode (op : BitVec 8) : Option Format :=
  match op.toNat with
  | 0x01 | 0x02 | 0x05 | 0x21 => some .r
  | 0x03 | 0x04 | 0x08 | 0x0A => some .s
  | 0x09 | 0x0B | 0x0C => some .ss
  | 0x10 | 0x11 | 0x1B | 0x20 => some .rs
  | 0x13 | 0x18 | 0x19 | 0x1A => some .rss
  | 0x12 => some .rssc
  | _ => none

end Sys2Proof
end

