-- ==== Sys2Proof/Machine/State.lean ====
section
/-! DEFINITION. The machine's state as plain data: every piece of state of spec/10_state.md (R17-R29), the level of
the reset pin, and the model's own record of what stands at the block's ports (R5, R133). -/

namespace Sys2Proof.Machine

/-- Byte memory: (index, byte) pairs, indices strictly rising, no byte 0. An unlisted index reads 0, the reset value
the spec gives every byte of `BUF` (R19). -/
abbrev Memory := List Host.Cell

/-- A host transaction on the bus target (R33, R35): the bus address, and the width in bytes (1, 2, 4 or 8). -/
inductive HostAccess where
  | read (addr : Nat) (bytes : Nat)
  /-- The data of a write that is not 32 bits wide never matters (R35), so one word stands for it. -/
  | write (addr : Nat) (bytes : Nat) (data : Word)
deriving DecidableEq, Repr

/-- An answer of the randomness source (R47): a byte sequence, first byte first, or `FAIL`. -/
inductive RngAnswer where
  | bytes (b : List Byte)
  | fail
deriving DecidableEq, Repr

/-- What happens in one step, in the order the block receives it (R5, R44, R133). -/
inductive Event where
  /-- The host performs one access. -/
  | host (a : HostAccess)
  /-- No access: the core has its turn. -/
  | core
  /-- The randomness source answers. -/
  | rng (a : RngAnswer)
  /-- The pin `rst_n` is driven to a level. -/
  | rstN (level : Bool)
deriving DecidableEq, Repr

/-- The block's response to the last host access. `busError` is R35's host-side `BusError` outcome. -/
inductive BusResp where
  | data (w : Word)
  | ack
  | busError
deriving DecidableEq, Repr

/-- What an aligned offset of the window names (R34). -/
inductive BusReg where
  | id | param0 | param1 | param2 | ctrl | status | cmd | bufLen | reserved
  /-- `BUFW[k]`. -/
  | bufw (k : Nat)
  /-- `INTW[j]`. -/
  | intw (j : Nat)
deriving DecidableEq, Repr

/-- The four errors of R105. -/
inductive ErrCode where
  | illegal | len | busy | rng
deriving DecidableEq, Repr

/-- One buffer set of the divstep datapath (R29): `d` is the value of a `LIMB_BITS`-bit two's-complement word, `f` and
`g` of `L+1` limbs read as signed, `v` and `r` integers in `[0, P)`. -/
structure DivState where
  d : Int
  f : Int
  g : Int
  v : Nat
  r : Nat
deriving DecidableEq, Repr

/-- The source operands a command reads at accept (R16, R29, R128). A source the command does not name is 0. -/
structure Operands where
  /-- `FE[rs1]`. -/
  a : Nat
  /-- `FE[rs2]`. -/
  b : Nat
  /-- `BUF`. -/
  buf : Memory
  /-- `INT`. -/
  int : Nat
  /-- `STATUS.RESULT`. -/
  result : Bool
deriving DecidableEq, Repr

/-- The in-flight latch (R29): the decoded command and its sources. The command word is `encode instr` (R53). -/
structure Latch where
  instr : Instr
  src : Operands
deriving DecidableEq, Repr

/-- Why the machine stops. No command and no error of the block stops it (R104, R111): both reasons are about inputs
that are no input of this block. -/
inductive Fault where
  /-- Raised by a host access whose address lies outside `[BASE, BASE + 0x7FF]` (R33): the block has no such address,
  and what answers there is the platform's. Safe: the model stops. -/
  | outsideWindow
  /-- Raised by an answer of the randomness source to an outstanding request that is neither `FAIL` nor exactly `NB`
  bytes (R47 admits no other). Safe: the model stops. -/
  | malformedAnswer
deriving DecidableEq, Repr

/-- What the model gives no step. -/
inductive Refusal where
  /-- Raised by exec's arm of a command that has no meaning yet. None is left. Safe. -/
  | notModelled (mnemonic : String)
  /-- Raised by step in a state whose configuration R7 calls invalid (R7, X12: "it gives it no step"). Safe. -/
  | invalidConfiguration
deriving DecidableEq, Repr

/-- The whole machine. `STATUS.BUSY` is not a field: it is 1 exactly while the latch holds a command (R25). -/
structure State where
  /-- The configuration (R6); no step changes it. -/
  cfg : Config
  /-- The field-element registers `f0`-`f15`, each the Montgomery representation of its value (R17). -/
  fe : Vector Nat 16
  /-- The byte buffer `BUF` (R19). -/
  buf : Memory
  /-- `BUF_LEN` (R20). -/
  bufLen : BitVec 16
  /-- `INT`, a `LIMB_BITS * L`-bit unsigned integer (R21). -/
  int : Nat
  /-- `STATUS.DONE` (R24, R25). -/
  done : Bool
  /-- `STATUS.VALID` (R22). -/
  valid : Bool
  /-- `STATUS.RESULT` (R23). -/
  result : Bool
  /-- `STATUS.ERR_ILLEGAL` (R24). -/
  errIllegal : Bool
  /-- `STATUS.ERR_LEN` (R24). -/
  errLen : Bool
  /-- `STATUS.ERR_BUSY` (R24). -/
  errBusy : Bool
  /-- `STATUS.ERR_RNG` (R24). -/
  errRng : Bool
  /-- `CTRL.IE` (R26). -/
  ie : Bool
  /-- The in-flight latch (R29). -/
  latch : Option Latch
  /-- Divstep buffer set A (R29). -/
  setA : DivState
  /-- Divstep buffer set B (R29). -/
  setB : DivState
  /-- The iteration counter `i` (R29). -/
  iter : Nat
  /-- The sampler's current draw: the source's answer, not yet used (R29). -/
  draw : Option RngAnswer
  /-- Whether a request to the randomness source is outstanding: the output `rng_req` (R29, R133). -/
  rngReq : Bool
  /-- The level of the input pin `rst_n` (R133). -/
  rstN : Bool
  /-- The model's own: the inputs to come, first next (R5, R30: the program is the host's transactions). -/
  events : List Event
  /-- The model's own: the bus target's response to the last access. -/
  resp : Option BusResp
  /-- The model's own: how many free values have been used (log 5). -/
  free : Nat
deriving DecidableEq, Repr

/-- A datapath buffer set holding zeros: what the model names for hidden state at reset (log 4). -/
def DivState.zero : DivState := { d := 0, f := 0, g := 0, v := 0, r := 0 }

/-- The machine of a configuration right after reset (R121 and the table of spec/10_state.md section 6), `rst_n` high,
with no input to come. -/
def State.resetOf (c : Config) : State :=
  { cfg := c, fe := Vector.replicate 16 0, buf := [], bufLen := 0, int := 0,
    done := false, valid := false, result := false,
    errIllegal := false, errLen := false, errBusy := false, errRng := false,
    ie := false, latch := none, setA := DivState.zero, setB := DivState.zero, iter := 0, draw := none, rngReq := false,
    rstN := true, events := [], resp := none, free := 0 }

/-- The machine right after reset. DESIGN CHOICE (log 1): of all configurations it is the document's worked one; every
statement about reset is made for `State.resetOf c` with any `c`. -/
def State.reset : State := State.resetOf Config.toy13

end Sys2Proof.Machine
end

