-- ==== Sys2Proof/Machine/Params.lean ====
section
/-! DEFINITION. The parameters and constants that follow from the configuration by a formula (spec/00_scope.md R6, R8).
They stand here and not in Config.lean so that a repair can mend them. -/

namespace Sys2Proof

/-- `L = ceil(W / LIMB_BITS)`. -/
def Config.limbs (c : Config) : Nat := (c.W + c.limbBits - 1) / c.limbBits

/-- The width of `INT` and of a field element: `LIMB_BITS * L` bits. -/
def Config.intBits (c : Config) : Nat := c.limbBits * c.limbs

/-- The width of an extended limb vector: `LIMB_BITS * (L+1)` bits (R10, R29). -/
def Config.extBits (c : Config) : Nat := c.limbBits * (c.limbs + 1)

/-- The Montgomery radix `R = 2^(LIMB_BITS * L)`. -/
def Config.radix (c : Config) : Nat := 2 ^ c.intBits

/-- `NB = ceil(W / 8)`, the length of an encoding in bytes. -/
def Config.nb (c : Config) : Nat := (c.W + 7) / 8

/-- `N_ITER = ceil((49*W + 57) / 17)`. -/
def Config.nIter (c : Config) : Nat := (49 * c.W + 57 + 16) / 17

/-- `BATCH = 1`: single divsteps per batched iteration (D23). -/
def Config.batch (_ : Config) : Nat := 1

/-- `T = N_ITER * BATCH`. -/
def Config.divsteps (c : Config) : Nat := c.nIter * c.batch

/-- `NREG = 16`. -/
def Config.nreg (_ : Config) : Nat := 16

/-- `NBW = ceil(NB / 4)`, the words of the buffer window that hold bytes. -/
def Config.nbw (c : Config) : Nat := (c.nb + 3) / 4

/-- `NIW = ceil(LIMB_BITS * L / 32)`, the words of the integer window that hold bits. -/
def Config.niw (c : Config) : Nat := (c.intBits + 31) / 32

/-- `2^(-k) mod P`, for odd `P`: `(P+1)/2` is the inverse of 2. -/
def Config.halfPow (c : Config) : Nat → Nat
  | 0 => 1 % c.P
  | k + 1 => (Config.halfPow c k * ((c.P + 1) / 2)) % c.P

/-- `RINV = R^(-1) mod P` (R8). -/
def Config.rinv (c : Config) : Nat := c.halfPow c.intBits

/-- `MONT_ONE = R mod P` (R8). -/
def Config.montOne (c : Config) : Nat := c.radix % c.P

/-- `MSAT = P` (R8, R85). -/
def Config.msat (c : Config) : Int := c.P

/-- `PRECOMP = (2^(-T) mod P) * R mod P` (R8, R86). -/
def Config.precomp (c : Config) : Nat := (c.halfPow c.divsteps * c.radix) % c.P

end Sys2Proof
end

