-- ==== Sys2Proof/Machine/Engine.lean ====
section
/-! DEFINITION. The limb engine's contract and the divstep (spec/42_limb_engine.md R78-R89): pure functions of their
inputs and the configuration. Arithmetic is exact and narrowed at the end. -/

namespace Sys2Proof.Machine

/-- `ct_select(c, a, b)`: `a` when `c = 0`, `b` when `c = 1` (R15). -/
def ctSelect (c : Bool) (a b : Nat) : Nat := if c then b else a

/-- `ENG_TO_MONT(x) = mont(x) = (x * R) mod P` (R13, R79). -/
def mont (c : Config) (x : Nat) : Nat := (x * c.radix) % c.P

/-- `ENG_FROM_MONT(m) = canon(m) = (m * RINV) mod P` (R13, R79). -/
def canon (c : Config) (m : Nat) : Nat := (m * c.rinv) % c.P

/-- `ENG_ADD(a, b) = (a + b) mod P` (R80). -/
def engAdd (c : Config) (a b : Nat) : Nat := (a + b) % c.P

/-- `ENG_SUB(a, b) = (a - b) mod P`, in `[0, P)` (R81, R11). -/
def engSub (c : Config) (a b : Nat) : Nat := (((a : Int) - (b : Int)) % (c.P : Int)).toNat

/-- `ENG_MUL(a, b) = (a * b * RINV) mod P` (R82). -/
def engMul (c : Config) (a b : Nat) : Nat := (a * b * c.rinv) % c.P

/-- `ENG_SQUARE(a) = (a * a * RINV) mod P` (R84). -/
def engSquare (c : Config) (a : Nat) : Nat := (a * a * c.rinv) % c.P

/-- `ENG_NEG(a) = (P - a) mod P` (R83, R11). -/
def engNeg (c : Config) (a : Nat) : Nat := (((c.P : Int) - (a : Int)) % (c.P : Int)).toNat

/-- The value of an integer held in a `w`-bit two's-complement word: `sint_w(bits_w(x))` (R10). -/
def narrow (w : Nat) (x : Int) : Int := Int.bmod x (2 ^ w)

/-- The top bit of a `w`-bit two's-complement word holding `x` (R10, R94). -/
def signBit (w : Nat) (x : Int) : Bool := decide ((2 : Int) ^ (w - 1) ≤ x % (2 : Int) ^ w)

/-- One single-bit divstep (R87). -/
def divstep (c : Config) (s : DivState) : DivState :=
  if 0 < s.d ∧ s.g % 2 = 1 then
    { d := narrow c.limbBits (1 - s.d)
      f := s.g
      g := narrow c.extBits ((s.g - s.f) / 2)
      v := (2 * s.r) % c.P
      r := (((s.r : Int) - (s.v : Int)) % (c.P : Int)).toNat }
  else
    { d := narrow c.limbBits (1 + s.d)
      f := s.f
      g := narrow c.extBits ((s.g + s.g % 2 * s.f) / 2)
      v := (2 * s.v) % c.P
      r := (s.r + (s.g % 2).toNat * s.v) % c.P }

/-- `k` single divsteps, one after another. -/
def divstepIter (c : Config) : Nat → DivState → DivState
  | 0, s => s
  | k + 1, s => divstepIter c k (divstep c s)

/-- `DIVSTEP_BATCH`: the engine's `divstep`, `BATCH` single divsteps (R88). -/
def divstepBatch (c : Config) (s : DivState) : DivState := divstepIter c c.batch s

/-- The divstep state at accept of an inversion of the value `a` (R92). -/
def divInit (c : Config) (a : Nat) : DivState := { d := 1, f := c.msat, g := (a : Int), v := 0, r := c.montOne }

/-- Sign correction and final multiplication (R94, R95). -/
def divResult (c : Config) (final : DivState) : Nat :=
  engMul c (ctSelect (signBit c.extBits final.f) final.v (engNeg c final.v)) c.precomp

end Sys2Proof.Machine
end

