-- ==== Sys2Proof/WellFormed.lean ====
section
/-! DEFINITION. When the fields of a command word are legal: the three clauses of spec/30_encoding.md R57, each read
the other way round. -/

namespace Sys2Proof

/-- R57, first clause: the opcode is one of the 20 of R56. -/
def RawCmd.assigned (r : RawCmd) : Bool := (Format.ofOpcode r.op).isSome

/-- R52 and R57, second clause: bits 31:21 are 0. -/
def RawCmd.reservedZero (r : RawCmd) : Bool := r.reserved == 0

/-- R53 and R57, third clause: every field the opcode's format does not use is 0. -/
def RawCmd.unusedZero (r : RawCmd) : Bool :=
  match Format.ofOpcode r.op with
  | none => true
  | some f =>
    (f.usesRd || r.rd == 0) && (f.usesRs1 || r.rs1 == 0) && (f.usesRs2 || r.rs2 == 0) && (f.usesCi || r.ci == 0)

/-- The fields of a legal command word. -/
def RawCmd.wellFormed (r : RawCmd) : Bool := r.assigned && r.reservedZero && r.unusedZero

end Sys2Proof
end

