-- ==== Sys2Proof/Decode.lean ====
section
/-! DEFINITION. Decoding a command word by the match and mask of its row (spec/30_encoding.md R53, R56, R62), total on
every 32-bit word, and the encoder written from the field layout of R51. -/

namespace Sys2Proof

/-- The register index in bits `lo+3:lo` of a command word (R51, R54). -/
def fieldReg (w : Word) (lo : Nat) : FReg := ⟨(w.extractLsb' lo 4).toNat, (w.extractLsb' lo 4).isLt⟩

/-- `RD = w[11:8]`. -/
def fieldRd (w : Word) : FReg := fieldReg w 8
/-- `RS1 = w[15:12]`. -/
def fieldRs1 (w : Word) : FReg := fieldReg w 12
/-- `RS2 = w[19:16]`. -/
def fieldRs2 (w : Word) : FReg := fieldReg w 16
/-- `CI = w[20]`. -/
def fieldCi (w : Word) : Bool := w.getLsbD 20

/-- A row of the opcode table: a word `w` is the row's command when `(w & mask) = pattern` (R53, R62). -/
structure Row where
  pattern : Word
  mask : Word
  build : Word → Instr

/-- The masks of the six formats (R53). -/
def Format.mask : Format → Word
  | .r => 0xFFFFF0FF
  | .s => 0xFFFF0FFF
  | .ss => 0xFFF00FFF
  | .rs => 0xFFFF00FF
  | .rss => 0xFFF000FF
  | .rssc => 0xFFE000FF

/-- The codec and compare rows of R56. -/
def rowsCodecCompare : List Row :=
  [ ⟨0x00000001, Format.mask .r, fun w => .fromBe (fieldRd w)⟩,
    ⟨0x00000002, Format.mask .r, fun w => .fromLe (fieldRd w)⟩,
    ⟨0x00000003, Format.mask .s, fun w => .toBe (fieldRs1 w)⟩,
    ⟨0x00000004, Format.mask .s, fun w => .toLe (fieldRs1 w)⟩,
    ⟨0x00000005, Format.mask .r, fun w => .fromUint (fieldRd w)⟩,
    ⟨0x00000008, Format.mask .s, fun w => .isZero (fieldRs1 w)⟩,
    ⟨0x00000009, Format.mask .ss, fun w => .eq (fieldRs1 w) (fieldRs2 w)⟩,
    ⟨0x0000000A, Format.mask .s, fun w => .isOdd (fieldRs1 w)⟩,
    ⟨0x0000000B, Format.mask .ss, fun w => .gt (fieldRs1 w) (fieldRs2 w)⟩,
    ⟨0x0000000C, Format.mask .ss, fun w => .lt (fieldRs1 w) (fieldRs2 w)⟩ ]

/-- The field-operation, limb-engine and inversion rows of R56. -/
def rowsFieldEngine : List Row :=
  [ ⟨0x00000010, Format.mask .rs, fun w => .dbl (fieldRd w) (fieldRs1 w)⟩,
    ⟨0x00000011, Format.mask .rs, fun w => .sqr (fieldRd w) (fieldRs1 w)⟩,
    ⟨0x00000012, Format.mask .rssc, fun w => .seli (fieldRd w) (fieldRs1 w) (fieldRs2 w) (fieldCi w)⟩,
    ⟨0x00000013, Format.mask .rss, fun w => .selr (fieldRd w) (fieldRs1 w) (fieldRs2 w)⟩,
    ⟨0x00000018, Format.mask .rss, fun w => .add (fieldRd w) (fieldRs1 w) (fieldRs2 w)⟩,
    ⟨0x00000019, Format.mask .rss, fun w => .sub (fieldRd w) (fieldRs1 w) (fieldRs2 w)⟩,
    ⟨0x0000001A, Format.mask .rss, fun w => .mul (fieldRd w) (fieldRs1 w) (fieldRs2 w)⟩,
    ⟨0x0000001B, Format.mask .rs, fun w => .neg (fieldRd w) (fieldRs1 w)⟩,
    ⟨0x00000020, Format.mask .rs, fun w => .inv (fieldRd w) (fieldRs1 w)⟩,
    ⟨0x00000021, Format.mask .r, fun w => .rand (fieldRd w)⟩ ]

/-- The opcode map of R56, in its order. -/
def rows : List Row := rowsCodecCompare ++ rowsFieldEngine

/-- Whether a word is the command of a row. -/
def Row.matchesWord (r : Row) (w : Word) : Bool := w &&& r.mask == r.pattern

/-- `decode(w) = row r such that (w & r.mask) = r.match`, or `none` where no row matches (R62). It reads the word
alone: no state and no configuration changes it (R59). -/
def decode (w : Word) : Option Instr := (rows.find? (fun r => r.matchesWord w)).map (fun r => r.build w)

/-- Why a word is illegal: the first clause of R57 that it breaks. -/
inductive DecodeError where
  /-- The opcode is not in the table of R56. -/
  | unassignedOpcode
  /-- A bit of `w[31:21]` is 1 (R52). -/
  | reservedBits
  /-- A field the opcode does not use is not 0 (R53). -/
  | unusedField
deriving DecidableEq, Repr

/-- The fields of a word (R51). -/
def RawCmd.ofWord (w : Word) : RawCmd :=
  { op := w.extractLsb' 0 8, rd := w.extractLsb' 8 4, rs1 := w.extractLsb' 12 4, rs2 := w.extractLsb' 16 4,
    ci := w.extractLsb' 20 1, reserved := w.extractLsb' 21 11 }

/-- Decoding that names the reason of a rejection. The block itself records none (R105: "the word is not kept"). -/
def decodeNamed (w : Word) : Except DecodeError Instr :=
  match decode w with
  | some i => .ok i
  | none =>
    if (RawCmd.ofWord w).assigned = false then .error .unassignedOpcode
    else if (RawCmd.ofWord w).reservedZero = false then .error .reservedBits
    else .error .unusedField

/-- The word whose fields are given, laid out as R51 says. -/
def RawCmd.pack (r : RawCmd) : Word := r.reserved ++ r.ci ++ r.rs2 ++ r.rs1 ++ r.rd ++ r.op

/-- A register index as the 4-bit field that selects it. -/
def FReg.field (i : FReg) : BitVec 4 := BitVec.ofFin i

/-- The opcode and fields of a command; every field its format does not use is 0 (R53, R56). -/
def Instr.raw : Instr → RawCmd
  | .fromBe rd => { op := 0x01, rd := FReg.field rd, rs1 := 0, rs2 := 0, ci := 0, reserved := 0 }
  | .fromLe rd => { op := 0x02, rd := FReg.field rd, rs1 := 0, rs2 := 0, ci := 0, reserved := 0 }
  | .toBe rs1 => { op := 0x03, rd := 0, rs1 := FReg.field rs1, rs2 := 0, ci := 0, reserved := 0 }
  | .toLe rs1 => { op := 0x04, rd := 0, rs1 := FReg.field rs1, rs2 := 0, ci := 0, reserved := 0 }
  | .fromUint rd => { op := 0x05, rd := FReg.field rd, rs1 := 0, rs2 := 0, ci := 0, reserved := 0 }
  | .isZero rs1 => { op := 0x08, rd := 0, rs1 := FReg.field rs1, rs2 := 0, ci := 0, reserved := 0 }
  | .eq rs1 rs2 => { op := 0x09, rd := 0, rs1 := FReg.field rs1, rs2 := FReg.field rs2, ci := 0, reserved := 0 }
  | .isOdd rs1 => { op := 0x0A, rd := 0, rs1 := FReg.field rs1, rs2 := 0, ci := 0, reserved := 0 }
  | .gt rs1 rs2 => { op := 0x0B, rd := 0, rs1 := FReg.field rs1, rs2 := FReg.field rs2, ci := 0, reserved := 0 }
  | .lt rs1 rs2 => { op := 0x0C, rd := 0, rs1 := FReg.field rs1, rs2 := FReg.field rs2, ci := 0, reserved := 0 }
  | .dbl rd rs1 => { op := 0x10, rd := FReg.field rd, rs1 := FReg.field rs1, rs2 := 0, ci := 0, reserved := 0 }
  | .sqr rd rs1 => { op := 0x11, rd := FReg.field rd, rs1 := FReg.field rs1, rs2 := 0, ci := 0, reserved := 0 }
  | .seli rd rs1 rs2 ci =>
    { op := 0x12, rd := FReg.field rd, rs1 := FReg.field rs1, rs2 := FReg.field rs2, ci := BitVec.ofBool ci, reserved := 0 }
  | .selr rd rs1 rs2 =>
    { op := 0x13, rd := FReg.field rd, rs1 := FReg.field rs1, rs2 := FReg.field rs2, ci := 0, reserved := 0 }
  | .add rd rs1 rs2 =>
    { op := 0x18, rd := FReg.field rd, rs1 := FReg.field rs1, rs2 := FReg.field rs2, ci := 0, reserved := 0 }
  | .sub rd rs1 rs2 =>
    { op := 0x19, rd := FReg.field rd, rs1 := FReg.field rs1, rs2 := FReg.field rs2, ci := 0, reserved := 0 }
  | .mul rd rs1 rs2 =>
    { op := 0x1A, rd := FReg.field rd, rs1 := FReg.field rs1, rs2 := FReg.field rs2, ci := 0, reserved := 0 }
  | .neg rd rs1 => { op := 0x1B, rd := FReg.field rd, rs1 := FReg.field rs1, rs2 := 0, ci := 0, reserved := 0 }
  | .inv rd rs1 => { op := 0x20, rd := FReg.field rd, rs1 := FReg.field rs1, rs2 := 0, ci := 0, reserved := 0 }
  | .rand rd => { op := 0x21, rd := FReg.field rd, rs1 := 0, rs2 := 0, ci := 0, reserved := 0 }

/-- A command is well formed when the fields that spell it are. The operand types of `Instr` leave no ill-formed
command (R54: every index is legal); Laws/PerInstr.lean proves it constructor by constructor. -/
def Instr.wellFormed (i : Instr) : Bool := i.raw.wellFormed

/-- The one word that spells a command (R53: "one exact bit pattern per legal command"). -/
def encode (i : Instr) : Word := i.raw.pack

/-- The host's question: what the decoder reads from an instruction whose table bits are `w`. A command is one 32-bit
word (R50); bits from `nbits` up are 0. -/
def decodeTableWord (nbits w : Nat) : Option Instr :=
  if w % 2 ^ nbits < 2 ^ 32 then decode (BitVec.ofNat 32 (w % 2 ^ nbits)) else none

end Sys2Proof
end

