-- ==== Sys2Proof/Machine/Ops.lean ====
section
/-! DEFINITION. The named operations over memory, registers and the command lifecycle. Raising an error is the
block's only exception: it has no trap (spec/60_exceptions.md R104). -/

namespace Sys2Proof.Machine

/-- The one outcome type of the machine. -/
abbrev Result := Host.Outcome State Fault Refusal

/-! ## Byte memory -/

/-- The byte at an index; an unlisted index reads 0 (R19). -/
def Memory.read : Memory → Nat → Byte
  | [], _ => 0
  | (k, v) :: m, a => if a = k then v else Memory.read m a

/-- A byte in front of a memory, unless it is the byte an unlisted index reads. -/
def Memory.put (a : Nat) (b : Byte) (m : Memory) : Memory := if b = 0 then m else (a, b) :: m

/-- The memory with a byte written; the canonical form is kept. -/
def Memory.write : Memory → Nat → Byte → Memory
  | [], a, b => Memory.put a b []
  | (k, v) :: m, a, b =>
    if a < k then Memory.put a b ((k, v) :: m)
    else if a = k then Memory.put a b m
    else (k, v) :: Memory.write m a b

/-- Consecutive bytes written from an index up. -/
def Memory.writeBytes : Memory → Nat → List Byte → Memory
  | m, _, [] => m
  | m, a, b :: bs => Memory.writeBytes (Memory.write m a b) (a + 1) bs

/-- The first `n` bytes, `BUF[0..n-1]`. -/
def Memory.readBytes (m : Memory) (n : Nat) : List Byte := (List.range n).map (Memory.read m)

/-- The canonical form: indices strictly rising, no entry 0. -/
def Memory.wf : Memory → Bool
  | [] => true
  | (k, v) :: m => decide (v ≠ 0) && m.all (fun cell => decide (k < cell.1)) && Memory.wf m

/-- Every listed index is below `n`. -/
def Memory.below (n : Nat) (m : Memory) : Bool := m.all (fun cell => decide (cell.1 < n))

/-! ## Registers -/

/-- `FE[i]` (R12). -/
def State.feAt (s : State) (i : FReg) : Nat := s.fe.get i

/-- `FE[i] <- v` (R12). No register is hardwired (R17). -/
def State.setFE (s : State) (i : FReg) (v : Nat) : State := { s with fe := s.fe.set i.val v i.isLt }

/-- `STATUS.BUSY`: 1 while a command is in flight (R24, R25). -/
def State.busy (s : State) : Bool := s.latch.isSome

def State.setValid (s : State) (b : Bool) : State := { s with valid := b }

def State.setResult (s : State) (b : Bool) : State := { s with result := b }

/-- `raise <error>`: sets the sticky bit of that name (R12, R105). Nothing else changes. -/
def State.raise (s : State) : ErrCode → State
  | .illegal => { s with errIllegal := true }
  | .len => { s with errLen := true }
  | .busy => { s with errBusy := true }
  | .rng => { s with errRng := true }

/-- An illegal command word (R108): `ERR_ILLEGAL` and `DONE`, `BUSY` stays 0. -/
def State.illegalCommand (s : State) : State := { s.raise .illegal with done := true }

/-- A length error (R109): `ERR_LEN`, `VALID <- 0` and `DONE`, `BUSY` stays 0. -/
def State.lengthError (s : State) : State := { s.raise .len with valid := false, done := true }

/-! ## The command lifecycle (R112) -/

/-- Accept: latch the command and its sources, `BUSY <- 1`, `DONE <- 0`. -/
def State.accept (s : State) (i : Instr) (src : Operands) : State :=
  { s with latch := some { instr := i, src := src }, done := false }

/-- `complete()`: `BUSY <- 0`, `DONE <- 1`. -/
def State.complete (s : State) : State := { s with latch := none, done := true }

/-- What the core does with command `i` in state `s`. Idle: `start` (accept it, or finish at once with an error). In
flight: one `turn`, given the sources read at accept. Where another command is in flight, `i` is dropped (R110). -/
def lifecycle (i : Instr) (start : State → State) (turn : Operands → State → State) (s : State) : Result :=
  match s.latch with
  | none => .next (start s)
  | some l => if l.instr = i then .next (turn l.src s) else .next (s.raise .busy)

/-- A command that is accepted whenever the block is idle and needs one turn: its writes and `complete()` are one
step (R112). -/
def command (i : Instr) (src : State → Operands) (effect : Operands → State → State) (s : State) : Result :=
  lifecycle i (fun t => t.accept i (src t)) (fun o t => (effect o t).complete) s

/-- A decode command: it is accepted only when `BUF_LEN = NB` (R107, R109). -/
def decodeCommand (i : Instr) (src : State → Operands) (effect : Operands → State → State) (s : State) : Result :=
  lifecycle i (fun t => if t.bufLen.toNat = t.cfg.nb then t.accept i (src t) else t.lengthError)
    (fun o t => (effect o t).complete) s

/-! ## Reset -/

/-- A reset of the block, hard or soft (R121-R123): all of its state takes the reset value, and a command in flight and
a request to the randomness source are gone. What stands at the ports (the pin's level, the inputs to come, the response
of the access in progress) and the model's count of free values are not the block's state. -/
def State.blockReset (s : State) : State :=
  { State.resetOf s.cfg with rstN := s.rstN, events := s.events, resp := s.resp, free := s.free }

end Sys2Proof.Machine
end

