-- ==== Sys2Proof/Machine/Flags.lean ====
section
/-! DEFINITION. The flags: what the compares and range checks answer, the words `STATUS` and `CTRL` as the host reads
them, write-1-to-clear, and the interrupt output (spec/10_state.md R22-R26, spec/60_exceptions.md R113). -/

namespace Sys2Proof.Machine

/-- The range check of a decode: the integer is below `P` (R63). -/
def flagInRange (c : Config) (x : Nat) : Bool := decide (x < c.P)

/-- `IS_ZERO` (R69): the representation is 0. -/
def flagIsZero (a : Nat) : Bool := decide (a = 0)

/-- `EQ` (R70): the representations are equal. -/
def flagEq (a b : Nat) : Bool := decide (a = b)

/-- `IS_ODD` (R71): bit 0 of the canonical value. -/
def flagIsOdd (c : Config) (a : Nat) : Bool := decide (canon c a % 2 = 1)

/-- `GT` (R76): strict, on canonical values. -/
def flagGt (c : Config) (a b : Nat) : Bool := decide (canon c b < canon c a)

/-- `LT` (R77): strict, on canonical values. -/
def flagLt (c : Config) (a b : Nat) : Bool := decide (canon c a < canon c b)

/-- `STATUS` as the host reads it (R24): bits 11:8 are the errors, 3:0 are `RESULT`, `VALID`, `DONE`, `BUSY`. -/
def State.statusWord (s : State) : Word :=
  0#20 ++ BitVec.ofBool s.errRng ++ BitVec.ofBool s.errBusy ++ BitVec.ofBool s.errLen ++ BitVec.ofBool s.errIllegal
    ++ 0#4 ++ BitVec.ofBool s.result ++ BitVec.ofBool s.valid ++ BitVec.ofBool s.done ++ BitVec.ofBool s.busy

/-- `CTRL` as the host reads it (R26): bit 1 is `IE`, `SRST` reads 0. -/
def State.ctrlWord (s : State) : Word := 0#30 ++ BitVec.ofBool s.ie ++ 0#1

/-- A W1C bit after a write: a written 1 clears it, a written 0 leaves it (R24). -/
def w1c (bit written : Bool) : Bool := bit && !written

/-- A write of `STATUS` (R24, R114, R126): the W1C bits are 1 and 11:8. -/
def State.writeStatus (s : State) (v : Word) : State :=
  { s with
    done := w1c s.done (v.getLsbD 1)
    errIllegal := w1c s.errIllegal (v.getLsbD 8)
    errLen := w1c s.errLen (v.getLsbD 9)
    errBusy := w1c s.errBusy (v.getLsbD 10)
    errRng := w1c s.errRng (v.getLsbD 11) }

/-- The interrupt output: `irq = STATUS.DONE AND CTRL.IE` (R113). DEDUCED (log 21): it falls at an accept too (R25). -/
def State.irq (s : State) : Bool := s.done && s.ie

end Sys2Proof.Machine
end

