-- ==== Sys2Proof/Machine/Bus.lean ====
section
/-! DEFINITION. The register window (spec/20_memory.md R33-R39): the map, what a read returns, and what a write does to
every register but `CMD`. -/

namespace Sys2Proof.Machine

/-- The size of the window in bytes (R33). -/
def windowSize : Nat := 0x800

/-- The register map of R34, for an offset that is a multiple of 4. -/
def busReg (off : Nat) : BusReg :=
  if off = 0x000 then .id
  else if off = 0x004 then .param0
  else if off = 0x008 then .param1
  else if off = 0x00C then .param2
  else if off = 0x010 then .ctrl
  else if off = 0x014 then .status
  else if off = 0x018 then .cmd
  else if off = 0x01C then .bufLen
  else if 0x100 ≤ off ∧ off ≤ 0x3FC then .bufw ((off - 0x100) / 4)
  else if 0x400 ≤ off ∧ off ≤ 0x7FC then .intw ((off - 0x400) / 4)
  else .reserved

/-- `ID` (R27). -/
def idWord : Word := 0x53474344

/-- `PARAM0`: `LIMB_BITS`, `L`, `W` (R27). -/
def param0Word (c : Config) : Word := BitVec.ofNat 8 c.limbBits ++ BitVec.ofNat 8 c.limbs ++ BitVec.ofNat 16 c.W

/-- `PARAM1`: `N_ITER`, `NB` (R27). -/
def param1Word (c : Config) : Word := BitVec.ofNat 16 c.nIter ++ BitVec.ofNat 16 c.nb

/-- `PARAM2`: 0, `NREG`, `BATCH` (R27). -/
def param2Word (c : Config) : Word := 0#16 ++ BitVec.ofNat 8 c.nreg ++ BitVec.ofNat 8 c.batch

/-- Byte `j` of `BUF` as a bus lane: a lane that holds no byte reads 0 (R36, R38). -/
def State.bufLane (s : State) (j : Nat) : Byte := if j < s.cfg.nb then Memory.read s.buf j else 0

/-- `BUFW[k]`: the lowest-numbered byte in the least significant lane (R37). -/
def State.bufWord (s : State) (k : Nat) : Word :=
  s.bufLane (4 * k + 3) ++ s.bufLane (4 * k + 2) ++ s.bufLane (4 * k + 1) ++ s.bufLane (4 * k)

/-- One lane of a write: a lane that holds no byte ignores it (R36-R38). -/
def State.writeLane (s : State) (j : Nat) (b : Byte) : State :=
  if j < s.cfg.nb then { s with buf := Memory.write s.buf j b } else s

/-- A write of `BUFW[k]` (R37). -/
def State.writeBufWord (s : State) (k : Nat) (v : Word) : State :=
  (((s.writeLane (4 * k) (v.extractLsb' 0 8)).writeLane (4 * k + 1) (v.extractLsb' 8 8)).writeLane
    (4 * k + 2) (v.extractLsb' 16 8)).writeLane (4 * k + 3) (v.extractLsb' 24 8)

/-- `INTW[j]`: bits `32j+31:32j` of `INT`; positions at or above `LIMB_BITS * L` read 0 (R39). -/
def State.intWord (s : State) (j : Nat) : Word := BitVec.ofNat 32 (s.int % 2 ^ s.cfg.intBits / 2 ^ (32 * j))

/-- `INT` with bits `32j+31:32j` replaced by `v`; positions at or above `LIMB_BITS * L` hold no bit (R39). -/
def replaceWord (n j : Nat) (v : Word) (width : Nat) : Nat :=
  (n / 2 ^ (32 * j + 32) * 2 ^ (32 * j + 32) + v.toNat * 2 ^ (32 * j) + n % 2 ^ (32 * j)) % 2 ^ width

/-- A write of `INTW[j]` (R39). -/
def State.writeIntWord (s : State) (j : Nat) (v : Word) : State :=
  { s with int := replaceWord s.int j v s.cfg.intBits }

/-- A write of `CTRL` (R26, R122): `SRST = 1` resets the block, whatever else is written; otherwise `IE` is written. -/
def State.writeCtrl (s : State) (v : Word) : State :=
  if v.getLsbD 0 then s.blockReset else { s with ie := v.getLsbD 1 }

/-- The word a register reads as, but for a data window while busy (R27, R28, R34, R36, R126). -/
def State.readReg (s : State) : BusReg → Word
  | .id => idWord
  | .param0 => param0Word s.cfg
  | .param1 => param1Word s.cfg
  | .param2 => param2Word s.cfg
  | .ctrl => s.ctrlWord
  | .status => s.statusWord
  | .cmd => 0
  | .bufLen => s.bufLen.setWidth 32
  | .reserved => 0
  | .bufw k => s.bufWord k
  | .intw j => s.intWord j

/-- The registers that read as usual while `rst_n = 0`; every other one reads 0 (R121). -/
def State.readInReset (s : State) : BusReg → Word
  | .id => idWord
  | .param0 => param0Word s.cfg
  | .param1 => param1Word s.cfg
  | .param2 => param2Word s.cfg
  | .ctrl | .status | .cmd | .bufLen | .reserved | .bufw _ | .intw _ => 0

/-- The buffer window and the integer window, whole (R34, R127). -/
def BusReg.isWindow : BusReg → Bool
  | .bufw _ | .intw _ => true
  | .id | .param0 | .param1 | .param2 | .ctrl | .status | .cmd | .bufLen | .reserved => false

/-- A 32-bit aligned read of a register. A data window read while busy answers a free value (R127, log 5). -/
def State.readAccess (s : State) (r : BusReg) : State :=
  if s.rstN = false then { s with resp := some (.data (s.readInReset r)) }
  else if s.busy && r.isWindow then { s with resp := some (.data (Config.busyRead s.free)), free := s.free + 1 }
  else { s with resp := some (.data (s.readReg r)) }

/-- A write of a register that is not `CMD`, `rst_n` high. Writes to `BUF_LEN` and the windows while busy are dropped
with `ERR_BUSY` (R110, R126); read-only and reserved registers ignore writes (R34, R36). -/
def State.writeReg (s : State) (r : BusReg) (v : Word) : State :=
  match r with
  | .ctrl => s.writeCtrl v
  | .status => s.writeStatus v
  | .bufLen => if s.busy then s.raise .busy else { s with bufLen := v.setWidth 16 }
  | .bufw k => if s.busy then s.raise .busy else s.writeBufWord k v
  | .intw j => if s.busy then s.raise .busy else s.writeIntWord j v
  | .id | .param0 | .param1 | .param2 | .cmd | .reserved => s

end Sys2Proof.Machine
end

