-- ==== Sys2Proof/Machine/Operands.lean ====
section
/-! DEFINITION. The operand forms: which sources a command reads at accept (spec/00_scope.md R16, spec/30_encoding.md
R53, spec/70_reset_and_hazards.md R128). -/

namespace Sys2Proof.Machine

/-- No source (`RAND`). -/
def Operands.empty : Operands := { a := 0, b := 0, buf := [], int := 0, result := false }

/-- `FE[rs1]` (formats S and RS). -/
def srcOne (rs1 : FReg) (s : State) : Operands := { Operands.empty with a := s.feAt rs1 }

/-- `FE[rs1]` and `FE[rs2]` (formats SS, RSS and RSSC). -/
def srcTwo (rs1 rs2 : FReg) (s : State) : Operands := { Operands.empty with a := s.feAt rs1, b := s.feAt rs2 }

/-- `FE[rs1]`, `FE[rs2]` and `STATUS.RESULT` (`SELR`, R75). -/
def srcTwoResult (rs1 rs2 : FReg) (s : State) : Operands :=
  { Operands.empty with a := s.feAt rs1, b := s.feAt rs2, result := s.result }

/-- `BUF` (`FROM_BE`, `FROM_LE`). -/
def srcBuf (s : State) : Operands := { Operands.empty with buf := s.buf }

/-- `INT` (`FROM_UINT`). -/
def srcInt (s : State) : Operands := { Operands.empty with int := s.int }

end Sys2Proof.Machine
end

