-- ==== Sys2Proof/Machine/Codec.lean ====
section
/-! DEFINITION. The codec commands (spec/40_codec.md R63-R67) and the byte-sequence conversions (spec/00_scope.md R14). -/

namespace Sys2Proof.Machine

/-- `le_int(B) = sum B[j] * 256^j`. -/
def leInt : List Byte → Nat
  | [] => 0
  | b :: bs => b.toNat + 256 * leInt bs

/-- `be_int(B) = sum B[j] * 256^(n-1-j)`: the first byte is the most significant. -/
def beInt (bs : List Byte) : Nat := leInt bs.reverse

/-- `le_bytes_n(x)`. -/
def leBytes : Nat → Nat → List Byte
  | 0, _ => []
  | n + 1, x => BitVec.ofNat 8 (x % 256) :: leBytes n (x / 256)

/-- `be_bytes_n(x)`. -/
def beBytes (n x : Nat) : List Byte := (leBytes n x).reverse

/-- The common end of `FROM_BE`, `FROM_LE` and `FROM_UINT` for the integer `x` (R63): `FE[rd]` is `mont(x)` if
`x < P` and 0 otherwise, and `VALID` says which. -/
def loadInt (rd : FReg) (x : Nat) (s : State) : State :=
  (s.setFE rd (ctSelect (flagInRange s.cfg x) 0 (mont s.cfg (x % s.cfg.P)))).setValid (flagInRange s.cfg x)

/-- The common end of `TO_BE` and `TO_LE` (R65): `BUF` takes the bytes and `BUF_LEN <- NB`. -/
def storeBytes (bytes : List Byte) (s : State) : State :=
  { s with buf := Memory.writeBytes s.buf 0 bytes, bufLen := BitVec.ofNat 16 s.cfg.nb }

/-- `FROM_BE rd` (R63). -/
def execFromBe (rd : FReg) (s : State) : Result :=
  decodeCommand (.fromBe rd) srcBuf (fun o t => loadInt rd (beInt (Memory.readBytes o.buf t.cfg.nb)) t) s

/-- `FROM_LE rd` (R64). -/
def execFromLe (rd : FReg) (s : State) : Result :=
  decodeCommand (.fromLe rd) srcBuf (fun o t => loadInt rd (leInt (Memory.readBytes o.buf t.cfg.nb)) t) s

/-- `TO_BE rs1` (R65). -/
def execToBe (rs1 : FReg) (s : State) : Result :=
  command (.toBe rs1) (srcOne rs1) (fun o t => storeBytes (beBytes t.cfg.nb (canon t.cfg o.a)) t) s

/-- `TO_LE rs1` (R66). -/
def execToLe (rs1 : FReg) (s : State) : Result :=
  command (.toLe rs1) (srcOne rs1) (fun o t => storeBytes (leBytes t.cfg.nb (canon t.cfg o.a)) t) s

/-- `FROM_UINT rd` (R67). -/
def execFromUint (rd : FReg) (s : State) : Result :=
  command (.fromUint rd) srcInt (fun o t => loadInt rd o.int t) s

end Sys2Proof.Machine
end

