-- ==== Sys2Proof/Machine/FieldOps.lean ====
section
/-! DEFINITION. The compares, selections, double and square (spec/41_field_ops.md R69-R77). -/

namespace Sys2Proof.Machine

/-- `IS_ZERO rs1` (R69). -/
def execIsZero (rs1 : FReg) (s : State) : Result :=
  command (.isZero rs1) (srcOne rs1) (fun o t => t.setResult (flagIsZero o.a)) s

/-- `EQ rs1, rs2` (R70). -/
def execEq (rs1 rs2 : FReg) (s : State) : Result :=
  command (.eq rs1 rs2) (srcTwo rs1 rs2) (fun o t => t.setResult (flagEq o.a o.b)) s

/-- `IS_ODD rs1` (R71). -/
def execIsOdd (rs1 : FReg) (s : State) : Result :=
  command (.isOdd rs1) (srcOne rs1) (fun o t => t.setResult (flagIsOdd t.cfg o.a)) s

/-- `GT rs1, rs2` (R76). -/
def execGt (rs1 rs2 : FReg) (s : State) : Result :=
  command (.gt rs1 rs2) (srcTwo rs1 rs2) (fun o t => t.setResult (flagGt t.cfg o.a o.b)) s

/-- `LT rs1, rs2` (R77). -/
def execLt (rs1 rs2 : FReg) (s : State) : Result :=
  command (.lt rs1 rs2) (srcTwo rs1 rs2) (fun o t => t.setResult (flagLt t.cfg o.a o.b)) s

/-- `DBL rd, rs1` (R72). -/
def execDbl (rd rs1 : FReg) (s : State) : Result :=
  command (.dbl rd rs1) (srcOne rs1) (fun o t => t.setFE rd (engAdd t.cfg o.a o.a)) s

/-- `SQR rd, rs1` (R73). -/
def execSqr (rd rs1 : FReg) (s : State) : Result :=
  command (.sqr rd rs1) (srcOne rs1) (fun o t => t.setFE rd (engSquare t.cfg o.a)) s

/-- `SELI rd, rs1, rs2, ci` (R74). -/
def execSeli (rd rs1 rs2 : FReg) (ci : Bool) (s : State) : Result :=
  command (.seli rd rs1 rs2 ci) (srcTwo rs1 rs2) (fun o t => t.setFE rd (ctSelect ci o.a o.b)) s

/-- `SELR rd, rs1, rs2` (R75): the choice is `STATUS.RESULT` as it stood at accept. -/
def execSelr (rd rs1 rs2 : FReg) (s : State) : Result :=
  command (.selr rd rs1 rs2) (srcTwoResult rs1 rs2) (fun o t => t.setFE rd (ctSelect o.result o.a o.b)) s

end Sys2Proof.Machine
end

