-- ==== Sys2Proof/Machine/Inversion.lean ====
section
/-! DEFINITION. The inversion engine and the sampler (spec/43_inversion.md R91-R103). -/

namespace Sys2Proof.Machine

/-- The buffer set that holds the state after `iter` iterations (R93): A after an even number, B after an odd one. -/
def State.current (s : State) : DivState := if s.iter % 2 = 0 then s.setA else s.setB

/-- Accept of an inversion (R91, R92): the datapath is initialised from `FE[rs1]` out of Montgomery form. -/
def startInversion (i : Instr) (rs1 : FReg) (s : State) : State :=
  { s.accept i (srcOne rs1 s) with setA := divInit s.cfg (canon s.cfg (s.feAt rs1)), iter := 0 }

/-- One batched iteration (R93): from the current set into the other one. -/
def iterate (s : State) : State :=
  if s.iter % 2 = 0 then { s with setB := divstepBatch s.cfg s.setA, iter := s.iter + 1 }
  else { s with setA := divstepBatch s.cfg s.setB, iter := s.iter + 1 }

/-- The end of an inversion (R94-R96): sign correction, final multiplication, and `VALID` from the input alone. -/
def finishInversion (rd : FReg) (o : Operands) (s : State) : State :=
  ((s.setFE rd (divResult s.cfg s.current)).setValid (decide (o.a ≠ 0))).complete

/-- One turn of the core with an inversion in flight: exactly `N_ITER` iterations, then the end (R93, R100). -/
def turnInversion (rd : FReg) (o : Operands) (s : State) : State :=
  if s.iter < s.cfg.nIter then iterate s else finishInversion rd o s

/-- `INV rd, rs1` (R91). -/
def execInv (rd rs1 : FReg) (s : State) : Result :=
  lifecycle (.inv rd rs1) (startInversion (.inv rd rs1) rs1) (turnInversion rd) s

/-- `RngDraw()`: a request for a fresh draw goes to the randomness source (R47). -/
def State.request (s : State) : State := { s with draw := none, rngReq := true }

/-- One turn of the core with a sampling in flight (R101, R102). Without an answer it waits (R47, R103). -/
def turnSampling (rd : FReg) (s : State) : State :=
  match s.draw with
  | none => s
  | some .fail => ((({ s with draw := none }).raise .rng).setValid false).complete
  | some (.bytes b) =>
    if beInt b < s.cfg.P then
      ((({ s with draw := none }).setFE rd (mont s.cfg (beInt b))).setValid true).complete
    else s.request

/-- `RAND rd` (R101): accepted, it asks for the first draw. -/
def execRand (rd : FReg) (s : State) : Result :=
  lifecycle (.rand rd) (fun t => (t.accept (.rand rd) Operands.empty).request) (fun _ t => turnSampling rd t) s

end Sys2Proof.Machine
end

