-- ==== Sys2Proof/Machine/LimbEngine.lean ====
section
/-! DEFINITION. The commands that expose the limb engine (spec/42_limb_engine.md R80-R83). They write no flag. -/

namespace Sys2Proof.Machine

/-- `ADD rd, rs1, rs2` (R80). -/
def execAdd (rd rs1 rs2 : FReg) (s : State) : Result :=
  command (.add rd rs1 rs2) (srcTwo rs1 rs2) (fun o t => t.setFE rd (engAdd t.cfg o.a o.b)) s

/-- `SUB rd, rs1, rs2` (R81). -/
def execSub (rd rs1 rs2 : FReg) (s : State) : Result :=
  command (.sub rd rs1 rs2) (srcTwo rs1 rs2) (fun o t => t.setFE rd (engSub t.cfg o.a o.b)) s

/-- `MUL rd, rs1, rs2` (R82). -/
def execMul (rd rs1 rs2 : FReg) (s : State) : Result :=
  command (.mul rd rs1 rs2) (srcTwo rs1 rs2) (fun o t => t.setFE rd (engMul t.cfg o.a o.b)) s

/-- `NEG rd, rs1` (R83). -/
def execNeg (rd rs1 : FReg) (s : State) : Result :=
  command (.neg rd rs1) (srcOne rs1) (fun o t => t.setFE rd (engNeg t.cfg o.a)) s

end Sys2Proof.Machine
end

