-- ==== Sys2Proof/Machine/Dispatch.lean ====
section
/-! DEFINITION. One arm per command: what the core does with it, at accept and at each of its turns in flight. -/

namespace Sys2Proof.Machine

def exec (i : Instr) (s : State) : Host.Outcome State Fault Refusal :=
  match i with
  | .fromBe rd => Sys2Proof.Machine.execFromBe rd s
  | .fromLe rd => Sys2Proof.Machine.execFromLe rd s
  | .toBe rs1 => Sys2Proof.Machine.execToBe rs1 s
  | .toLe rs1 => Sys2Proof.Machine.execToLe rs1 s
  | .fromUint rd => Sys2Proof.Machine.execFromUint rd s
  | .isZero rs1 => Sys2Proof.Machine.execIsZero rs1 s
  | .eq rs1 rs2 => Sys2Proof.Machine.execEq rs1 rs2 s
  | .isOdd rs1 => Sys2Proof.Machine.execIsOdd rs1 s
  | .gt rs1 rs2 => Sys2Proof.Machine.execGt rs1 rs2 s
  | .lt rs1 rs2 => Sys2Proof.Machine.execLt rs1 rs2 s
  | .dbl rd rs1 => Sys2Proof.Machine.execDbl rd rs1 s
  | .sqr rd rs1 => Sys2Proof.Machine.execSqr rd rs1 s
  | .seli rd rs1 rs2 ci => Sys2Proof.Machine.execSeli rd rs1 rs2 ci s
  | .selr rd rs1 rs2 => Sys2Proof.Machine.execSelr rd rs1 rs2 s
  | .add rd rs1 rs2 => Sys2Proof.Machine.execAdd rd rs1 rs2 s
  | .sub rd rs1 rs2 => Sys2Proof.Machine.execSub rd rs1 rs2 s
  | .mul rd rs1 rs2 => Sys2Proof.Machine.execMul rd rs1 rs2 s
  | .neg rd rs1 => Sys2Proof.Machine.execNeg rd rs1 s
  | .inv rd rs1 => Sys2Proof.Machine.execInv rd rs1 s
  | .rand rd => Sys2Proof.Machine.execRand rd s

end Sys2Proof.Machine
end

