-- ==== Sys2Proof/Machine/Validity.lean ====
section
/-! DEFINITION. The check of a configuration before every step (spec/00_scope.md R7): what a model refuses. -/

namespace Sys2Proof

/-- The clauses of R7 that are inequalities between the parameters, with R6's constraints on `W` and `LIMB_BITS`. -/
def Config.fits (c : Config) : Bool :=
  decide (0 < c.W) && (
  decide (c.limbBits = 8 ∨ c.limbBits = 16 ∨ c.limbBits = 32 ∨ c.limbBits = 64) && (
  decide (c.P % 2 = 1) && (
  decide (3 ≤ c.P) && (
  decide (c.P < 2 ^ c.W) && (
  decide (c.W ≤ c.limbBits * c.limbs) && (
  decide (c.nb ≤ 768) && (
  decide (c.limbBits * c.limbs ≤ 8192) && (
  decide (c.W ≤ 65535) && (
  decide (c.nIter ≤ 65535) && (
  decide (c.limbs ≤ 255) && (
  decide (c.batch ≤ 255) &&
  decide (c.divsteps + 1 ≤ 2 ^ (c.limbBits - 1) - 1))))))))))))

/-- Trial division: no number from 2 up to `P - 1` divides `P`. -/
def Config.primeCheck (c : Config) : Bool := (List.range c.P).all (fun k => decide (k < 2) || decide (c.P % k ≠ 0))

/-- R98: for every `a` in `[1, P)`, `T` single divsteps end at `g = 0` and `f = 1` or `f = -1`. -/
def Config.convergenceCheck (c : Config) : Bool :=
  (List.range c.P).all (fun a => decide (a = 0) ||
    (decide ((Machine.divstepIter c c.divsteps (Machine.divInit c a)).g = 0) &&
     decide ((Machine.divstepIter c c.divsteps (Machine.divInit c a)).f.natAbs = 1)))

/-- Whether two configurations are the same field in the same limbs, at whatever bus address. -/
def Config.sameField (c e : Config) : Bool := decide (c.P = e.P) && decide (c.W = e.W) && decide (c.limbBits = e.limbBits)

/-- R8's two example configurations. `TOY13` passes the two exhaustive checks (Tests/Slice0.lean shows it). PRESUMED
(log 3): `P384` does, which no evaluation could show. -/
def Config.example384or13 (c : Config) : Bool := c.sameField Config.toy13 || c.sameField Config.p384

/-- The check `step` makes: R7, with the two exhaustive clauses taken as passed for R8's examples. -/
def Config.ok (c : Config) : Bool := c.fits && (c.example384or13 || (c.primeCheck && c.convergenceCheck))

end Sys2Proof
end

