-- ==== Sys2Proof/Machine/Agents.lean ====
section
/-! DEFINITION. What each agent does in one step (spec/00_scope.md R5): the host's access, the core's turn, the
randomness source's answer, and the reset pin. -/

namespace Sys2Proof.Machine

/-- A write of `CMD`, `rst_n` high: the checks of R107 in order. A command that is neither dropped nor illegal goes to
`exec`, whose accept makes the length check. -/
def State.issue (s : State) (w : Word) : Result :=
  if s.busy then .next (s.raise .busy)
  else
    match decode w with
    | none => .next s.illegalCommand
    | some i => exec i s

/-- A 32-bit aligned write: acknowledged, and ignored while `rst_n = 0` (R121). -/
def State.writeAccess (s : State) (r : BusReg) (v : Word) : Result :=
  let t := { s with resp := some .ack }
  if s.rstN = false then .next t
  else
    match r with
    | .cmd => t.issue v
    | .id | .param0 | .param1 | .param2 | .ctrl | .status | .bufLen | .reserved | .bufw _ | .intw _ =>
      .next (t.writeReg r v)

/-- Whether an address lies in the block's window (R33). -/
def State.inWindow (s : State) (addr : Nat) : Bool :=
  decide (s.cfg.base ≤ addr) && decide (addr < s.cfg.base + windowSize)

/-- Whether an access is one the block performs: 32 bits at an offset that is a multiple of 4 (R35). -/
def State.aligned (s : State) (addr bytes : Nat) : Bool := decide (bytes = 4) && decide ((addr - s.cfg.base) % 4 = 0)

/-- The host performs one access. An access of another width or alignment gets a bus error and changes nothing (R35). -/
def State.hostAccess (s : State) (a : HostAccess) : Result :=
  match a with
  | .read addr bytes =>
    if s.inWindow addr = false then .fault .outsideWindow
    else if s.aligned addr bytes = false then .next { s with resp := some .busError }
    else .next (s.readAccess (busReg (addr - s.cfg.base)))
  | .write addr bytes v =>
    if s.inWindow addr = false then .fault .outsideWindow
    else if s.aligned addr bytes = false then .next { s with resp := some .busError }
    else s.writeAccess (busReg (addr - s.cfg.base)) v

/-- The core has its turn: the command in flight takes one, and an idle core (or one held in reset) does nothing (R112,
R119, R121). -/
def State.coreTurn (s : State) : Result :=
  if s.rstN = false then .next s
  else
    match s.latch with
    | none => .next s
    | some l => exec l.instr s

/-- The randomness source answers. Without an outstanding request, or in reset, the answer is ignored (R47, R121). -/
def State.rngAnswer (s : State) (a : RngAnswer) : Result :=
  if s.rstN = false || s.rngReq = false then .next s
  else
    match a with
    | .fail => .next { s with draw := some .fail, rngReq := false }
    | .bytes b =>
      if b.length = s.cfg.nb then .next { s with draw := some (.bytes b), rngReq := false } else .fault .malformedAnswer

/-- The pin `rst_n` is driven: low resets the block and holds it, high lets it go (R121). -/
def State.drivePin (s : State) (level : Bool) : State :=
  if level then { s with rstN := true } else { s.blockReset with rstN := false }

/-- What an event does. -/
def State.perform (s : State) (e : Event) : Result :=
  match e with
  | .host a => s.hostAccess a
  | .core => s.coreTurn
  | .rng a => s.rngAnswer a
  | .rstN level => .next (s.drivePin level)

/-- One step of a machine whose configuration is valid: the next event, or a turn of the core where none is to come. -/
def State.advance (s : State) : Result :=
  match s.events with
  | [] => s.coreTurn
  | e :: es => ({ s with events := es }).perform e

/-- The state with a `CMD` write of `w` as the next event and nothing in its way: no command in flight, out of reset. -/
def State.placeCommand (s : State) (w : Word) : State :=
  { s with events := .host (.write (s.cfg.base + 0x018) 4 w) :: s.events, latch := none, rstN := true }

end Sys2Proof.Machine
end

