-- ==== Sys2Proof/Machine/Step.lean ====
section
/-! DEFINITION. One step of the machine: one host access, core turn, answer or pin change (spec/70_reset_and_hazards.md
R133). -/

namespace Sys2Proof.Machine

/-- One step. An invalid configuration gets none (R7). -/
def step (s : State) : Host.Outcome State Fault Refusal :=
  if s.cfg.ok then s.advance else .refused .invalidConfiguration

/-- The host's placing of a command where the next step takes it: the host agent's next access writes it to `CMD`. -/
def State.withFetchWord (s : State) (nbits w : Nat) : State :=
  s.placeCommand (BitVec.ofNat 32 (w % 2 ^ nbits))

end Sys2Proof.Machine
end

