-- ==== Sys2Proof/Safety.lean ====
section
/-! DEFINITION. The terms claims are made in: valid configurations, what holds in every good state, running one command
to its end, performing one event, and what an observer of timing can see. -/

namespace Sys2Proof

/-- R98: for every `a` in `[1, P)`, at most `T` single divsteps bring the state of R92 to `g = 0` and `f = 1` or
`f = -1`. -/
def Config.Converges (c : Config) : Prop :=
  ∀ a, 1 ≤ a → a < c.P → ∃ k, k ≤ c.divsteps ∧
    (Machine.divstepIter c k (Machine.divInit c a)).g = 0 ∧
    (Machine.divstepIter c k (Machine.divInit c a)).f.natAbs = 1

/-- A valid configuration (R7). -/
def Config.Valid (c : Config) : Prop := c.fits = true ∧ Nat.Prime c.P ∧ c.Converges

namespace Machine

/-! ## Good states -/

/-- R18: every register holds an integer in `[0, P)`, and so do the register operands in the latch. -/
def State.Reduced (s : State) : Prop :=
  (∀ i : FReg, s.feAt i < s.cfg.P) ∧ (∀ l, s.latch = some l → l.src.a < s.cfg.P ∧ l.src.b < s.cfg.P)

/-- A byte memory in canonical form with no byte at or above `NB` (R19). -/
def Memory.Good (c : Config) (m : Memory) : Prop := Memory.wf m = true ∧ Memory.below c.nb m = true

/-- The buffers hold what they have room for (R19, R21), in the latch too. -/
def State.Canonical (s : State) : Prop :=
  Memory.Good s.cfg s.buf ∧ s.int < 2 ^ s.cfg.intBits ∧
  (∀ l, s.latch = some l → Memory.Good s.cfg l.src.buf ∧ l.src.int < 2 ^ s.cfg.intBits)

/-- R89: the range of a divstep state after `i` single divsteps. -/
def DivState.InRange (c : Config) (i : Nat) (x : DivState) : Prop :=
  -(i : Int) ≤ x.d ∧ x.d ≤ (i : Int) + 1 ∧ x.f.natAbs ≤ c.P ∧ x.g.natAbs ≤ c.P ∧ x.v < c.P ∧ x.r < c.P ∧ x.f % 2 = 1

/-- While an inversion is in flight its counter and its current buffer set are in range (R29, R89). -/
def State.DatapathInRange (s : State) : Prop :=
  ∀ rd rs1 o, s.latch = some { instr := .inv rd rs1, src := o } →
    s.iter ≤ s.cfg.nIter ∧ DivState.InRange s.cfg (s.iter * s.cfg.batch) s.current

/-- Only `RAND` asks the randomness source (R47), a request and an unused draw never stand together, and a block held
in reset has no command in flight and asks for nothing (R121). -/
def State.SamplerConsistent (s : State) : Prop :=
  (s.rngReq = true → s.draw = none ∧ ∃ rd o, s.latch = some { instr := .rand rd, src := o }) ∧
  (s.rstN = false → s.latch = none ∧ s.rngReq = false)

/-! ## Running -/

/-- `k` times what the core does with one command: its accept, then its turns. -/
def runCommand (i : Instr) : Nat → State → Result
  | 0, s => .next s
  | k + 1, s =>
    match exec i s with
    | .next t => runCommand i k t
    | .fault r => .fault r
    | .refused r => .refused r

/-- The state reached, where there is one. -/
def Result.thenRun (r : Result) (i : Instr) (k : Nat) : Result :=
  match r with
  | .next t => runCommand i k t
  | .fault e => .fault e
  | .refused e => .refused e

/-- The step of a machine whose next event is `e` and whose events after it are those of `s`. -/
def State.stepOn (s : State) (e : Event) : Result := step { s with events := e :: s.events }

/-- `k` steps of the machine. -/
def runSteps : Nat → State → Result
  | 0, s => .next s
  | k + 1, s =>
    match step s with
    | .next t => runSteps k t
    | .fault r => .fault r
    | .refused r => .refused r

/-- A 32-bit write at an offset of the window. -/
def State.writeTo (s : State) (off : Nat) (v : Word) : Event := .host (.write (s.cfg.base + off) 4 v)

/-- A 32-bit read at an offset of the window. -/
def State.readFrom (s : State) (off : Nat) : Event := .host (.read (s.cfg.base + off) 4)

/-- The words of one row of the opcode map, and what writing one to `CMD` can raise: the words with
`(w & mask) = pattern`, and no others, decode to the row's command (R53); written while a command is in flight such a
word sets `ERR_BUSY` and nothing else (R110); and every other word with the row's opcode is illegal, and on an idle
block sets `ERR_ILLEGAL` and `DONE` and nothing else (R57, R108). -/
def Spelled (pattern mask : Word) (build : Word → Instr) : Prop :=
  ∀ w : Word,
    (decode w = some (build w) ↔ w &&& mask = pattern) ∧
    (∀ s : State, s.cfg.ok = true → s.rstN = true → s.latch ≠ none → w &&& mask = pattern →
      s.stepOn (s.writeTo 0x018 w) = .next { s with resp := some .ack, errBusy := true }) ∧
    (∀ s : State, s.cfg.ok = true → s.rstN = true → s.latch = none →
      w.extractLsb' 0 8 = pattern.extractLsb' 0 8 → w &&& mask ≠ pattern →
      s.stepOn (s.writeTo 0x018 w) = .next { s with resp := some .ack, errIllegal := true, done := true })

/-! ## Reset -/

/-- The next input is a reset of the block: `rst_n` driven low (R121), or a write of `CTRL` with `SRST = 1` (R122). -/
def State.ResetNext (s : State) : Prop :=
  (∃ es, s.events = .rstN false :: es) ∨ ∃ v es, s.events = s.writeTo 0x010 v :: es ∧ v.getLsbD 0 = true

/-- Every item of the reset-value table of spec/10_state.md section 6 is at its value, no command is in flight and no
request to the randomness source is outstanding (R121). The hidden state, whose reset value is unspecified, is not
asked about. -/
def State.AtReset (s : State) : Prop :=
  (∀ i : FReg, s.feAt i = 0) ∧ s.buf = [] ∧ s.bufLen = 0 ∧ s.int = 0 ∧ s.statusWord = 0 ∧ s.ctrlWord = 0 ∧
  s.irq = false ∧ s.latch = none ∧ s.rngReq = false

/-! ## What timing shows -/

/-- What an observer of `BUSY`, `DONE`, the error bits and `irq` can tell apart, with what decides it (R131): all but the
contents of the FE registers, `BUF`, `INT`, the flags `VALID` and `RESULT`, the operands and the datapath. -/
structure PublicView where
  cfg : Config
  bufLen : BitVec 16
  done : Bool
  errIllegal : Bool
  errLen : Bool
  errBusy : Bool
  errRng : Bool
  ie : Bool
  inFlight : Option Instr
  iter : Nat
  draw : Option RngAnswer
  rngReq : Bool
  rstN : Bool
  events : List Event
  free : Nat
deriving DecidableEq, Repr

def State.publicView (s : State) : PublicView :=
  { cfg := s.cfg, bufLen := s.bufLen, done := s.done, errIllegal := s.errIllegal, errLen := s.errLen,
    errBusy := s.errBusy, errRng := s.errRng, ie := s.ie, inFlight := s.latch.map (fun l => l.instr), iter := s.iter,
    draw := s.draw, rngReq := s.rngReq, rstN := s.rstN, events := s.events, free := s.free }

/-- A sampling is in flight: the one command whose timing depends on data (R131). -/
def State.sampling (s : State) : Prop := ∃ rd o, s.latch = some { instr := .rand rd, src := o }

end Machine

end Sys2Proof
end

