-- ==== Sys2Proof/Certificates/Slice0/Obligations.lean ====
section
/-! DEFINITION. The statements for the provers, one `def Obligations.<Name> : Prop` each. A statement about the buses is
about `step`, through `State.stepOn`; a statement about a command is about `exec`: idle it accepts (R112(1)), in flight
it takes the core's turns (R112(2), (3)). -/

open Sys2Proof Sys2Proof.Machine

/-! ## Encoding -/

/-- V-D1 to V-D31: words written out in the spec decode to the commands they stand for, or to none. -/
def Obligations.SpecWordsDecode : Prop :=
  decode 0x00000201 = some (.fromBe 2) ∧ decode 0x00003004 = some (.toLe 3) ∧ decode 0x00000305 = some (.fromUint 3) ∧
  decode 0x0002100B = some (.gt 1 2) ∧ decode 0x00004311 = some (.sqr 3 4) ∧ decode 0x00165412 = some (.seli 4 5 6 true) ∧
  decode 0x00010213 = some (.selr 2 0 1) ∧ decode 0x0001021A = some (.mul 2 0 1) ∧ decode 0x00000120 = some (.inv 1 0) ∧
  decode 0x00000521 = some (.rand 5) ∧ decode 0x00000006 = none ∧ decode 0x00001001 = none ∧ decode 0x00200001 = none ∧
  decode 0x00110213 = none ∧ decode 0x80165412 = none

/-- Decoding the word that spells a command gives the command back, for every command and every operand value. -/
def Obligations.DecodeOfEncodeIsIdentity : Prop := ∀ i : Instr, decode (encode i) = some i

/-- R53: a legal command has one exact bit pattern, so a word that decodes is the word that spells what it decodes to. -/
def Obligations.EncodeOfDecodeIsIdentity : Prop := ∀ (w : Word) (i : Instr), decode w = some i → encode i = w

/-- R57: exactly the words of its three clauses are illegal, the all-zero and the all-ones word among them, and writing
one to `CMD` of an idle block writes nothing but `ERR_ILLEGAL` and `DONE`. -/
def Obligations.IllegalWordsAreExactlyThese : Prop :=
  (∀ w : Word, decode w = none ↔
    ((w.extractLsb' 0 8).toNat ∉ [0x01, 0x02, 0x03, 0x04, 0x05, 0x08, 0x09, 0x0A, 0x0B, 0x0C, 0x10, 0x11, 0x12, 0x13,
        0x18, 0x19, 0x1A, 0x1B, 0x20, 0x21] ∨
      w.extractLsb' 21 11 ≠ 0 ∨
      ∃ f, Format.ofOpcode (w.extractLsb' 0 8) = some f ∧
        ((f.usesRd = false ∧ w.extractLsb' 8 4 ≠ 0) ∨ (f.usesRs1 = false ∧ w.extractLsb' 12 4 ≠ 0) ∨
          (f.usesRs2 = false ∧ w.extractLsb' 16 4 ≠ 0) ∨ (f.usesCi = false ∧ w.extractLsb' 20 1 ≠ 0)))) ∧
  decode 0x00000000 = none ∧ decode 0xFFFFFFFF = none ∧
  (∀ (s : State) (w : Word), s.cfg.ok = true → s.rstN = true → s.latch = none → decode w = none →
    s.stepOn (s.writeTo 0x018 w) = .next { s with resp := some .ack, errIllegal := true, done := true })

/-- R62: decoding picks the row whose match and mask fit, no two rows fit one word, and they differ in bits 7:0. -/
def Obligations.DecodingPicksTheOneRow : Prop :=
  (∀ (w : Word) (i : Instr), decode w = some i ↔ ∃ r ∈ rows, w &&& r.mask = r.pattern ∧ r.build w = i) ∧
  (∀ w : Word, decode w = none ↔ ∀ r ∈ rows, w &&& r.mask ≠ r.pattern) ∧
  rows.Pairwise (fun r q => ∀ w : Word, ¬ (w &&& r.mask = r.pattern ∧ w &&& q.mask = q.pattern)) ∧
  rows.Pairwise (fun r q => r.pattern.extractLsb' 0 8 ≠ q.pattern.extractLsb' 0 8) ∧
  (∀ r ∈ rows, r.mask.extractLsb' 0 8 = 0xFF)

/-! ## Steps and the command lifecycle -/

/-- A step runs the decoded command: the host's `CMD` write of a legal word on an idle block is `exec` of the command,
with the access taken off the inputs and acknowledged; a turn of the core is `exec` of the command in flight; and the
host's placing of a word makes the next step run it. That the inputs are a list in the state is the model's choice
(log 2, log 6). -/
def Obligations.StepRunsTheDecodedCommand : Prop :=
  (∀ (s : State) (w : Word) (i : Instr), s.cfg.ok = true → s.rstN = true → s.latch = none → decode w = some i →
    s.stepOn (s.writeTo 0x018 w) = exec i { s with resp := some .ack }) ∧
  (∀ (s : State) (l : Latch), s.cfg.ok = true → s.rstN = true → s.latch = some l →
    s.stepOn .core = exec l.instr s ∧ (s.events = [] → step s = exec l.instr s)) ∧
  (∀ (s : State) (w : Nat) (i : Instr), s.cfg.ok = true → w < 2 ^ 32 → decode (BitVec.ofNat 32 w) = some i →
    step (s.withFetchWord 32 w) = exec i { s with latch := none, rstN := true, resp := some .ack })

/-- R107 to R109: the checks of a `CMD` write in their order: busy, illegal, length, accepted. -/
def Obligations.CommandWriteChecksInOrder : Prop :=
  ∀ (s : State) (w : Word), s.cfg.ok = true → s.rstN = true →
    (s.latch ≠ none →
      s.stepOn (s.writeTo 0x018 w) = .next { s with resp := some .ack, errBusy := true }) ∧
    (s.latch = none → decode w = none →
      s.stepOn (s.writeTo 0x018 w) = .next { s with resp := some .ack, errIllegal := true, done := true }) ∧
    (∀ rd, s.latch = none → (decode w = some (.fromBe rd) ∨ decode w = some (.fromLe rd)) → s.bufLen.toNat ≠ s.cfg.nb →
      s.stepOn (s.writeTo 0x018 w) = .next { s with resp := some .ack, errLen := true, valid := false, done := true }) ∧
    (∀ i, s.latch = none → decode w = some i →
      (∀ rd, (i = .fromBe rd ∨ i = .fromLe rd) → s.bufLen.toNat = s.cfg.nb) →
      ∃ t o, s.stepOn (s.writeTo 0x018 w) = .next t ∧ t.latch = some { instr := i, src := o } ∧ t.done = false ∧
        t.fe = s.fe ∧ t.buf = s.buf ∧ t.bufLen = s.bufLen ∧ t.int = s.int ∧ t.valid = s.valid ∧ t.result = s.result ∧
        t.errIllegal = s.errIllegal ∧ t.errLen = s.errLen ∧ t.errBusy = s.errBusy ∧ t.errRng = s.errRng ∧ t.ie = s.ie)

/-- R110: while a command is in flight, a write to `CMD`, `BUF_LEN` or a word of either window changes nothing but
`ERR_BUSY`; `CTRL` and `STATUS` are written as when idle; read-only and reserved offsets ignore the write. That a window
word past the last one that holds data sets `ERR_BUSY` too is the model's deduction from R36 and R110 (log 10). -/
def Obligations.WritesWhileBusyAreDropped : Prop :=
  ∀ (s : State) (off : Nat) (v : Word), s.cfg.ok = true → s.rstN = true → s.latch ≠ none → off % 4 = 0 → off < 0x800 →
    ((off = 0x018 ∨ off = 0x01C ∨ 0x100 ≤ off) →
      s.stepOn (s.writeTo off v) = .next { s with resp := some .ack, errBusy := true }) ∧
    (off = 0x010 → s.stepOn (s.writeTo off v) = .next (({ s with resp := some .ack } : State).writeCtrl v)) ∧
    (off = 0x014 → s.stepOn (s.writeTo off v) = .next (({ s with resp := some .ack } : State).writeStatus v)) ∧
    ((off < 0x010 ∨ (0x020 ≤ off ∧ off < 0x100)) →
      s.stepOn (s.writeTo off v) = .next { s with resp := some .ack })

/-- R128, R126: no host access but a soft reset touches the command in flight, its operands or anything it will read or
write. -/
def Obligations.HostCannotDisturbTheCommandInFlight : Prop :=
  ∀ (s t : State) (a : HostAccess), s.rstN = true → s.latch ≠ none → s.stepOn (.host a) = .next t →
    (∀ v, a = .write (s.cfg.base + 0x010) 4 v → v.getLsbD 0 = false) →
    t.latch = s.latch ∧ t.setA = s.setA ∧ t.setB = s.setB ∧ t.iter = s.iter ∧ t.draw = s.draw ∧ t.rngReq = s.rngReq ∧
    t.fe = s.fe ∧ t.buf = s.buf ∧ t.bufLen = s.bufLen ∧ t.int = s.int ∧ t.result = s.result ∧ t.valid = s.valid

/-! ## The register window -/

/-- R35: an access of another width or at an offset that is no multiple of 4 gets a bus error and changes no state, busy or
not. -/
def Obligations.OtherAccessesAreBusErrors : Prop :=
  ∀ (s : State) (off bytes : Nat) (v : Word), s.cfg.ok = true → s.rstN = true → off < 0x800 → (bytes ≠ 4 ∨ off % 4 ≠ 0) →
    s.stepOn (.host (.read (s.cfg.base + off) bytes)) = .next { s with resp := some .busError } ∧
    s.stepOn (.host (.write (s.cfg.base + off) bytes v)) = .next { s with resp := some .busError }

/-- R36: reserved offsets, reserved bits and read-only registers read as said and ignore writes, and `CMD` reads 0, with a
command in flight or not; window words past the last one that holds data do so in an idle block (for a busy one see
log 10). The premise on `INT` is `State.Canonical`'s. -/
def Obligations.ReservedPlacesReadZeroAndIgnoreWrites : Prop :=
  ∀ (s : State) (off : Nat) (v : Word), s.cfg.ok = true → s.rstN = true → off % 4 = 0 → off < 0x800 →
    ((0x020 ≤ off ∧ off < 0x100) →
      s.stepOn (s.readFrom off) = .next { s with resp := some (.data 0) } ∧
      s.stepOn (s.writeTo off v) = .next { s with resp := some .ack }) ∧
    (s.latch = none → s.int < 2 ^ s.cfg.intBits →
      ((0x100 + 4 * s.cfg.nbw ≤ off ∧ off < 0x400) ∨ 0x400 + 4 * s.cfg.niw ≤ off) →
      s.stepOn (s.readFrom off) = .next { s with resp := some (.data 0) } ∧
      s.stepOn (s.writeTo off v) = .next { s with resp := some .ack }) ∧
    (off < 0x010 → s.stepOn (s.writeTo off v) = .next { s with resp := some .ack }) ∧
    s.stepOn (s.readFrom 0x018) = .next { s with resp := some (.data 0) } ∧
    (s.statusWord &&& 0xFFFFF0F0 = 0 ∧ s.writeStatus (v &&& 0x00000F02) = s.writeStatus v ∧
      s.writeStatus (v ||| 0xFFFFF0FD) = s.writeStatus v) ∧
    (s.ctrlWord &&& 0xFFFFFFFD = 0 ∧ s.writeCtrl (v &&& 0x00000003) = s.writeCtrl v ∧
      s.writeCtrl (v ||| 0xFFFFFFFC) = s.writeCtrl v) ∧
    (s.readReg .bufLen &&& 0xFFFF0000 = 0 ∧ s.writeReg .bufLen (v &&& 0x0000FFFF) = s.writeReg .bufLen v)

/-- R37, R38: lane `t` of `BUFW[k]` is byte `4k + t` of `BUF` where `4k + t < NB`, and otherwise reads 0 and ignores
writes; a write changes no other byte and nothing else; `BUF_LEN` can hold any 16 bits. The premise on `BUF` is
`State.Canonical`'s. -/
def Obligations.BufferWindowPacksBytes : Prop :=
  ∀ (s : State) (k : Nat) (v : Word), s.cfg.ok = true → s.rstN = true → s.latch = none → Memory.wf s.buf = true →
    k < s.cfg.nbw →
    (∃ r : Word, s.stepOn (s.readFrom (0x100 + 4 * k)) = .next { s with resp := some (.data r) } ∧
      ∀ t, t < 4 → r.extractLsb' (8 * t) 8 = (if 4 * k + t < s.cfg.nb then Memory.read s.buf (4 * k + t) else 0)) ∧
    (∃ m : Memory, s.stepOn (s.writeTo (0x100 + 4 * k) v) = .next { s with resp := some .ack, buf := m } ∧
      (∀ t, t < 4 → 4 * k + t < s.cfg.nb → Memory.read m (4 * k + t) = v.extractLsb' (8 * t) 8) ∧
      (∀ j, (j < 4 * k ∨ 4 * k + 4 ≤ j ∨ s.cfg.nb ≤ j) → Memory.read m j = Memory.read s.buf j)) ∧
    s.stepOn (s.writeTo 0x01C v) = .next { s with resp := some .ack, bufLen := v.setWidth 16 }

/-- R39: `INTW[j]` is bits `32j+31:32j` of `INT`; positions at or above `LIMB_BITS * L` read 0 and ignore writes; a write
leaves the other bits. The premise on `INT` is `State.Canonical`'s. -/
def Obligations.IntegerWindowHoldsTheBitsOfInt : Prop :=
  ∀ (s : State) (j : Nat) (v : Word), s.cfg.ok = true → s.rstN = true → s.latch = none → s.int < 2 ^ s.cfg.intBits →
    j < s.cfg.niw →
    (∃ r : Word, s.stepOn (s.readFrom (0x400 + 4 * j)) = .next { s with resp := some (.data r) } ∧
      ∀ p, p < 32 → r.getLsbD p = (decide (32 * j + p < s.cfg.intBits) && s.int.testBit (32 * j + p))) ∧
    (∃ n : Nat, s.stepOn (s.writeTo (0x400 + 4 * j) v) = .next { s with resp := some .ack, int := n } ∧
      n < 2 ^ s.cfg.intBits ∧
      ∀ p, p < s.cfg.intBits →
        n.testBit p = (if 32 * j ≤ p ∧ p < 32 * j + 32 then v.getLsbD (p - 32 * j) else s.int.testBit p))

/-- R20, R24, R26, R114, R126: with a command in flight or not, what `STATUS`, `CTRL` and `BUF_LEN` read, bit by bit, and
that a write of `STATUS` clears exactly the W1C bits written as 1 and changes nothing else. -/
def Obligations.StatusReadsItsBitsAndClearsOnOne : Prop :=
  ∀ (s : State) (v : Word), s.cfg.ok = true → s.rstN = true →
    (∃ r : Word, s.stepOn (s.readFrom 0x014) = .next { s with resp := some (.data r) } ∧
      r.getLsbD 0 = s.latch.isSome ∧ r.getLsbD 1 = s.done ∧ r.getLsbD 2 = s.valid ∧ r.getLsbD 3 = s.result ∧
      r.getLsbD 8 = s.errIllegal ∧ r.getLsbD 9 = s.errLen ∧ r.getLsbD 10 = s.errBusy ∧ r.getLsbD 11 = s.errRng ∧
      r.extractLsb' 4 4 = 0 ∧ r.extractLsb' 12 20 = 0) ∧
    (∃ r : Word, s.stepOn (s.readFrom 0x010) = .next { s with resp := some (.data r) } ∧
      r.getLsbD 1 = s.ie ∧ ∀ k, k ≠ 1 → r.getLsbD k = false) ∧
    (∃ r : Word, s.stepOn (s.readFrom 0x01C) = .next { s with resp := some (.data r) } ∧
      r.extractLsb' 0 16 = s.bufLen ∧ r.extractLsb' 16 16 = 0) ∧
    s.stepOn (s.writeTo 0x014 v) = .next
      { s with
        resp := some .ack
        done := s.done && !v.getLsbD 1
        errIllegal := s.errIllegal && !v.getLsbD 8
        errLen := s.errLen && !v.getLsbD 9
        errBusy := s.errBusy && !v.getLsbD 10
        errRng := s.errRng && !v.getLsbD 11 }

/-- R27: the identification registers read the values of the table, in reset too, and ignore writes. -/
def Obligations.IdentificationRegistersAreConstant : Prop :=
  (∀ (s : State) (v : Word), s.cfg.ok = true →
    ∃ p0 p1 p2 : Word,
      s.stepOn (s.readFrom 0x000) = .next { s with resp := some (.data 0x53474344) } ∧
      s.stepOn (s.readFrom 0x004) = .next { s with resp := some (.data p0) } ∧
      s.stepOn (s.readFrom 0x008) = .next { s with resp := some (.data p1) } ∧
      s.stepOn (s.readFrom 0x00C) = .next { s with resp := some (.data p2) } ∧
      (p0.extractLsb' 0 16).toNat = s.cfg.W ∧ (p0.extractLsb' 16 8).toNat = s.cfg.limbs ∧
      (p0.extractLsb' 24 8).toNat = s.cfg.limbBits ∧ (p1.extractLsb' 0 16).toNat = s.cfg.nb ∧
      (p1.extractLsb' 16 16).toNat = s.cfg.nIter ∧ (p2.extractLsb' 0 8).toNat = s.cfg.batch ∧
      (p2.extractLsb' 8 8).toNat = 16 ∧ p2.extractLsb' 16 16 = 0 ∧
      (∀ off, off < 0x010 → off % 4 = 0 → s.stepOn (s.writeTo off v) = .next { s with resp := some .ack })) ∧
  (param0Word Config.toy13 = 0x08010004 ∧ param1Word Config.toy13 = 0x000F0001 ∧ param2Word Config.toy13 = 0x00001001 ∧
    param0Word Config.p384 = 0x40060180 ∧ param1Word Config.p384 = 0x04570030 ∧ param2Word Config.p384 = 0x00001001)

/-- R127: a read of a data window while a command is in flight answers the next free value (log 5), whatever that is,
and changes nothing of the block. -/
def Obligations.WindowReadsWhileBusyAreFree : Prop :=
  ∀ (s : State) (off : Nat), s.cfg.ok = true → s.rstN = true → s.latch ≠ none → 0x100 ≤ off → off < 0x800 → off % 4 = 0 →
    s.stepOn (s.readFrom off) = .next { s with resp := some (.data (Config.busyRead s.free)), free := s.free + 1 }

/-- R43: a read changes nothing of the block, and a second read with no write between answers the same, but for a data
window while busy. -/
def Obligations.ReadsHaveNoSideEffects : Prop :=
  ∀ (s t : State) (addr bytes : Nat), s.stepOn (.host (.read addr bytes)) = .next t →
    t = { s with resp := t.resp, free := t.free } ∧
    (¬ (s.latch ≠ none ∧ s.cfg.base + 0x100 ≤ addr) →
      ∃ u, t.stepOn (.host (.read addr bytes)) = .next u ∧ u.resp = t.resp)

/-- R113: `irq` is `DONE` and `IE`, read in the two registers, and 0 after reset. With `IE = 1` it is high once a command
completes, an illegal word is written or a length error occurs; a write of `CTRL` moves it with `IE` or resets it, a write
of `STATUS` lowers it with `DONE`, and a write dropped as busy never changes it. It falls in no other way but one: the
accept of a command clears `DONE` (R25), which R113's list of what ends it leaves out (log 21). -/
def Obligations.InterruptIsDoneAndEnable : Prop :=
  (∀ s : State, s.irq = (s.statusWord.getLsbD 1 && s.ctrlWord.getLsbD 1)) ∧
  (∀ c : Config, (State.resetOf c).irq = false) ∧
  (∀ (s : State) (v : Word), s.cfg.ok = true → s.rstN = true →
    (∀ t, s.latch ≠ none → s.stepOn .core = .next t → t.latch = none → t.irq = s.ie) ∧
    (s.latch = none → decode v = none →
      ∃ t, s.stepOn (s.writeTo 0x018 v) = .next t ∧ t.errIllegal = true ∧ t.irq = s.ie) ∧
    (∀ rd, s.latch = none → (decode v = some (.fromBe rd) ∨ decode v = some (.fromLe rd)) → s.bufLen.toNat ≠ s.cfg.nb →
      ∃ t, s.stepOn (s.writeTo 0x018 v) = .next t ∧ t.errLen = true ∧ t.irq = s.ie) ∧
    (∃ t, s.stepOn (s.writeTo 0x010 v) = .next t ∧ t.irq = (s.done && v.getLsbD 1 && !v.getLsbD 0)) ∧
    (∃ t, s.stepOn (s.writeTo 0x014 v) = .next t ∧ t.irq = (s.irq && !v.getLsbD 1)) ∧
    (s.latch ≠ none → ∃ t, s.stepOn (s.writeTo 0x018 v) = .next t ∧ t.errBusy = true ∧ t.irq = s.irq)) ∧
  ∀ s t : State, step s = .next t → s.irq = true → t.irq = false →
    s.ResetNext ∨ (s.latch = none ∧ t.latch ≠ none) ∨
    (∃ v es, s.events = s.writeTo 0x014 v :: es ∧ v.getLsbD 1 = true) ∨
    (∃ v es, s.events = s.writeTo 0x010 v :: es ∧ v.getLsbD 1 = false)

/-! ## Reset -/

/-- R122, R123: a write of `CTRL` with bit 0 set puts every item at its reset value, busy or not, the `IE` of the same
write and a command in flight included; with bit 0 clear it only updates `IE`. -/
def Obligations.SoftResetThroughControl : Prop :=
  ∀ (s : State) (v : Word), s.cfg.ok = true → s.rstN = true →
    (v.getLsbD 0 = true → ∃ t, s.stepOn (s.writeTo 0x010 v) = .next t ∧ t.AtReset ∧ t.cfg = s.cfg ∧ t.rstN = true ∧
      t.resp = some .ack ∧ t.events = s.events) ∧
    (v.getLsbD 0 = false → s.stepOn (s.writeTo 0x010 v) = .next { s with resp := some .ack, ie := v.getLsbD 1 })

/-- R121: `rst_n` low puts every item at its reset value; while it is low writes, answers and the core's turns change
nothing and reads answer 0 but for the identification registers; back at 1 the block is idle and takes the next `CMD`
write. -/
def Obligations.HardResetHoldsTheBlock : Prop :=
  (∀ s : State, s.cfg.ok = true → ∃ t, s.stepOn (.rstN false) = .next t ∧ t.AtReset ∧ t.cfg = s.cfg ∧
    t.rstN = false ∧ t.events = s.events) ∧
  (∀ (s : State) (off : Nat) (v : Word) (a : RngAnswer), s.cfg.ok = true → s.rstN = false → off % 4 = 0 → off < 0x800 →
    s.stepOn (s.writeTo off v) = .next { s with resp := some .ack } ∧
    (0x010 ≤ off → s.stepOn (s.readFrom off) = .next { s with resp := some (.data 0) }) ∧
    s.stepOn (s.readFrom 0x000) = .next { s with resp := some (.data 0x53474344) } ∧
    s.stepOn (s.readFrom 0x004) = .next { s with resp := some (.data (param0Word s.cfg)) } ∧
    s.stepOn (s.readFrom 0x008) = .next { s with resp := some (.data (param1Word s.cfg)) } ∧
    s.stepOn (s.readFrom 0x00C) = .next { s with resp := some (.data (param2Word s.cfg)) } ∧
    s.stepOn (.rng a) = .next s ∧ s.stepOn .core = .next s) ∧
  (∀ (s : State) (w : Word) (i : Instr), s.cfg.ok = true → s.rstN = false → s.latch = none → decode w = some i →
    s.stepOn (.rstN true) = .next { s with rstN := true } ∧
    ({ s with rstN := true } : State).stepOn (s.writeTo 0x018 w) = exec i { s with rstN := true, resp := some .ack })

/-- R124: what a program sees after a reset, in every state a reset leaves, with any configuration whose parameters
fit; `State.resetOf` of any configuration is such a state. The spec marks R124 as derived from its other rules. -/
def Obligations.StateAfterReset : Prop :=
  (∀ c : Config, (State.resetOf c).AtReset ∧ (State.resetOf c).cfg = c ∧ (State.resetOf c).rstN = true) ∧
  ∀ s : State, s.AtReset → s.cfg.fits = true →
    (∀ i : FReg, canon s.cfg (s.feAt i) = 0 ∧ ∃ t, runCommand (.isZero i) 2 s = .next t ∧ t.result = true) ∧
    (∀ i : FReg, ∃ t, runCommand (.toBe i) 2 s = .next t ∧ t.bufLen.toNat = s.cfg.nb ∧
      ∀ j, Memory.read t.buf j = 0) ∧
    (s.valid = false ∧ s.result = false) ∧
    (∀ rd rs1 rs2 : FReg, ∃ t, runCommand (.selr rd rs1 rs2) 2 s = .next t ∧ t.feAt rd = s.feAt rs1) ∧
    (∀ rd : FReg,
      exec (.fromBe rd) s = .next { s with errLen := true, valid := false, done := true } ∧
      exec (.fromLe rd) s = .next { s with errLen := true, valid := false, done := true }) ∧
    s.latch = none ∧ s.irq = false

/-- The invariants of the machine hold right after reset. -/
def Obligations.ResetMeetsTheInvariants : Prop :=
  ∀ c : Config, c.fits = true →
    (State.resetOf c).Reduced ∧ (State.resetOf c).Canonical ∧ (State.resetOf c).DatapathInRange ∧
    (State.resetOf c).SamplerConsistent

/-! ## The codec -/

/-- R14: the byte conversions are the sums of the rule, and each inverts the other on `[0, 256^n)`. The spec marks which
byte is the most significant as general knowledge. -/
def Obligations.ByteConversionsAreTheSums : Prop :=
  (∀ bs : List Byte,
    leInt bs = ∑ j : Fin bs.length, (bs.get j).toNat * 256 ^ j.val ∧
    beInt bs = ∑ j : Fin bs.length, (bs.get j).toNat * 256 ^ (bs.length - 1 - j.val)) ∧
  (∀ n x : Nat, x < 256 ^ n → ∀ bs : List Byte,
    (bs.length = n ∧ leInt bs = x ↔ bs = leBytes n x) ∧ (bs.length = n ∧ beInt bs = x ↔ bs = beBytes n x))

/-- R13, R79: `mont` and `canon` are inverse bijections of `[0, P)`; the spec marks that as derived. -/
def Obligations.MontgomeryTransformsAreInverse : Prop :=
  ∀ c : Config, c.fits = true →
    (∀ x, mont c x = (x * c.radix) % c.P ∧ canon c x = (x * c.rinv) % c.P) ∧
    (∀ x, x < c.P → mont c x < c.P ∧ canon c x < c.P ∧ canon c (mont c x) = x ∧ mont c (canon c x) = x)

/-- R63, R64, R109: `FROM_BE` and `FROM_LE`: their words, the length error, the accept, and the completion, which always
writes `FE[rd]` and `VALID`. -/
def Obligations.DecodeCommandsLoadTheBuffer : Prop :=
  Spelled 0x00000001 0xFFFFF0FF (fun w => .fromBe (fieldRd w)) ∧
  Spelled 0x00000002 0xFFFFF0FF (fun w => .fromLe (fieldRd w)) ∧
  ∀ (rd : FReg) (s : State),
    (s.latch = none → s.bufLen.toNat ≠ s.cfg.nb →
      exec (.fromBe rd) s = .next { s with errLen := true, valid := false, done := true } ∧
      exec (.fromLe rd) s = .next { s with errLen := true, valid := false, done := true }) ∧
    (s.latch = none → s.bufLen.toNat = s.cfg.nb →
      exec (.fromBe rd) s = .next
        { s with latch := some { instr := .fromBe rd, src := { Operands.empty with buf := s.buf } }, done := false } ∧
      exec (.fromLe rd) s = .next
        { s with latch := some { instr := .fromLe rd, src := { Operands.empty with buf := s.buf } }, done := false }) ∧
    (∀ o, s.latch = some { instr := .fromBe rd, src := o } →
      exec (.fromBe rd) s = .next
        { s with
          fe := s.fe.set rd.val (if beInt (Memory.readBytes o.buf s.cfg.nb) < s.cfg.P
            then mont s.cfg (beInt (Memory.readBytes o.buf s.cfg.nb)) else 0) rd.isLt
          valid := decide (beInt (Memory.readBytes o.buf s.cfg.nb) < s.cfg.P)
          latch := none, done := true }) ∧
    (∀ o, s.latch = some { instr := .fromLe rd, src := o } →
      exec (.fromLe rd) s = .next
        { s with
          fe := s.fe.set rd.val (if leInt (Memory.readBytes o.buf s.cfg.nb) < s.cfg.P
            then mont s.cfg (leInt (Memory.readBytes o.buf s.cfg.nb)) else 0) rd.isLt
          valid := decide (leInt (Memory.readBytes o.buf s.cfg.nb) < s.cfg.P)
          latch := none, done := true })

/-- R67: `FROM_UINT`, which has no length check. -/
def Obligations.FromUintLoadsTheInteger : Prop :=
  Spelled 0x00000005 0xFFFFF0FF (fun w => .fromUint (fieldRd w)) ∧
  ∀ (rd : FReg) (s : State),
    (s.latch = none → exec (.fromUint rd) s = .next
      { s with latch := some { instr := .fromUint rd, src := { Operands.empty with int := s.int } }, done := false }) ∧
    (∀ o, s.latch = some { instr := .fromUint rd, src := o } → exec (.fromUint rd) s = .next
      { s with
        fe := s.fe.set rd.val (if o.int < s.cfg.P then mont s.cfg o.int else 0) rd.isLt
        valid := decide (o.int < s.cfg.P)
        latch := none, done := true })

/-- R65, R66: `TO_BE` and `TO_LE` write all `NB` bytes of the encoding of the canonical value and set `BUF_LEN`. The
premise on `BUF` is `State.Canonical`'s. -/
def Obligations.EncodeCommandsStoreTheBytes : Prop :=
  Spelled 0x00000003 0xFFFF0FFF (fun w => .toBe (fieldRs1 w)) ∧
  Spelled 0x00000004 0xFFFF0FFF (fun w => .toLe (fieldRs1 w)) ∧
  ∀ (rs1 : FReg) (s : State),
    (s.latch = none →
      exec (.toBe rs1) s = .next
        { s with latch := some { instr := .toBe rs1, src := { Operands.empty with a := s.feAt rs1 } }, done := false } ∧
      exec (.toLe rs1) s = .next
        { s with latch := some { instr := .toLe rs1, src := { Operands.empty with a := s.feAt rs1 } }, done := false }) ∧
    (∀ o, s.latch = some { instr := .toBe rs1, src := o } → Memory.wf s.buf = true → ∃ m : Memory,
      exec (.toBe rs1) s = .next
        { s with buf := m, bufLen := BitVec.ofNat 16 s.cfg.nb, latch := none, done := true } ∧
      Memory.readBytes m s.cfg.nb = beBytes s.cfg.nb (canon s.cfg o.a)) ∧
    (∀ o, s.latch = some { instr := .toLe rs1, src := o } → Memory.wf s.buf = true → ∃ m : Memory,
      exec (.toLe rs1) s = .next
        { s with buf := m, bufLen := BitVec.ofNat 16 s.cfg.nb, latch := none, done := true } ∧
      Memory.readBytes m s.cfg.nb = leBytes s.cfg.nb (canon s.cfg o.a))

/-- R68: encoding a register and decoding the buffer gives the register back, in both byte orders; decoding a buffer whose
integer is below `P` and encoding the register gives the bytes back. The spec marks R68 as derived. -/
def Obligations.EncodeThenDecodeRoundTrips : Prop :=
  ∀ (s : State) (i j : FReg), s.cfg.fits = true → s.latch = none → s.feAt i < s.cfg.P →
    Memory.wf s.buf = true →
    (∃ t, (runCommand (.toBe i) 2 s).thenRun (.fromBe j) 2 = .next t ∧ t.feAt j = s.feAt i ∧ t.valid = true) ∧
    (∃ t, (runCommand (.toLe i) 2 s).thenRun (.fromLe j) 2 = .next t ∧ t.feAt j = s.feAt i ∧ t.valid = true) ∧
    (s.bufLen.toNat = s.cfg.nb → beInt (Memory.readBytes s.buf s.cfg.nb) < s.cfg.P →
      ∃ t, (runCommand (.fromBe j) 2 s).thenRun (.toBe j) 2 = .next t ∧
        Memory.readBytes t.buf s.cfg.nb = Memory.readBytes s.buf s.cfg.nb) ∧
    (s.bufLen.toNat = s.cfg.nb → leInt (Memory.readBytes s.buf s.cfg.nb) < s.cfg.P →
      ∃ t, (runCommand (.fromLe j) 2 s).thenRun (.toLe j) 2 = .next t ∧
        Memory.readBytes t.buf s.cfg.nb = Memory.readBytes s.buf s.cfg.nb)

/-- The frame of `TO_BE` and `TO_LE`, at accept and at completion: every register, flag, error bit and buffer stays, but
for `BUF_LEN` and the `NB` bytes stored from index 0 up. -/
def Obligations.EncodeCommandsFrame : Prop :=
  ∀ (i : Instr) (s t : State) (rs1 : FReg), (i = .toBe rs1 ∨ i = .toLe rs1) →
    (∀ l, s.latch = some l → l.instr = i) → exec i s = .next t →
    (∀ r : FReg, t.feAt r = s.feAt r) ∧ (∀ a, s.cfg.nb ≤ a → Memory.read t.buf a = Memory.read s.buf a) ∧
    (t.bufLen = s.bufLen ∨ t.bufLen = BitVec.ofNat 16 s.cfg.nb) ∧
    t.int = s.int ∧ t.valid = s.valid ∧ t.result = s.result ∧ t.errIllegal = s.errIllegal ∧ t.errLen = s.errLen ∧
    t.errBusy = s.errBusy ∧ t.errRng = s.errRng ∧ t.ie = s.ie ∧ t.setA = s.setA ∧ t.setB = s.setB ∧ t.iter = s.iter ∧
    t.draw = s.draw ∧ t.rngReq = s.rngReq ∧ t.cfg = s.cfg

/-! ## Compares, selection, double and square -/

/-- R69, R70: `IS_ZERO` and `EQ` compare representations, which on reduced registers decides the values. -/
def Obligations.RepresentationCompares : Prop :=
  Spelled 0x00000008 0xFFFF0FFF (fun w => .isZero (fieldRs1 w)) ∧
  Spelled 0x00000009 0xFFF00FFF (fun w => .eq (fieldRs1 w) (fieldRs2 w)) ∧
  ∀ (rs1 rs2 : FReg) (s : State),
    (s.latch = none →
      exec (.isZero rs1) s = .next
        { s with latch := some { instr := .isZero rs1, src := { Operands.empty with a := s.feAt rs1 } }, done := false } ∧
      exec (.eq rs1 rs2) s = .next
        { s with
          latch := some { instr := .eq rs1 rs2, src := { Operands.empty with a := s.feAt rs1, b := s.feAt rs2 } }
          done := false }) ∧
    (∀ o, s.latch = some { instr := .isZero rs1, src := o } →
      exec (.isZero rs1) s = .next { s with result := decide (o.a = 0), latch := none, done := true }) ∧
    (∀ o, s.latch = some { instr := .eq rs1 rs2, src := o } →
      exec (.eq rs1 rs2) s = .next { s with result := decide (o.a = o.b), latch := none, done := true }) ∧
    (∀ a b, s.cfg.fits = true → a < s.cfg.P → b < s.cfg.P →
      (a = 0 ↔ canon s.cfg a = 0) ∧ (a = b ↔ canon s.cfg a = canon s.cfg b))

/-- R71, R76, R77: `IS_ODD`, `GT` and `LT` look at canonical values; the values 0 and `P - 1` are even, and of two
reduced registers that hold different values exactly one is greater. -/
def Obligations.CanonicalCompares : Prop :=
  Spelled 0x0000000A 0xFFFF0FFF (fun w => .isOdd (fieldRs1 w)) ∧
  Spelled 0x0000000B 0xFFF00FFF (fun w => .gt (fieldRs1 w) (fieldRs2 w)) ∧
  Spelled 0x0000000C 0xFFF00FFF (fun w => .lt (fieldRs1 w) (fieldRs2 w)) ∧
  ∀ (rs1 rs2 : FReg) (s : State),
    (s.latch = none →
      exec (.isOdd rs1) s = .next
        { s with latch := some { instr := .isOdd rs1, src := { Operands.empty with a := s.feAt rs1 } }, done := false } ∧
      exec (.gt rs1 rs2) s = .next
        { s with
          latch := some { instr := .gt rs1 rs2, src := { Operands.empty with a := s.feAt rs1, b := s.feAt rs2 } }
          done := false } ∧
      exec (.lt rs1 rs2) s = .next
        { s with
          latch := some { instr := .lt rs1 rs2, src := { Operands.empty with a := s.feAt rs1, b := s.feAt rs2 } }
          done := false }) ∧
    (∀ o, s.latch = some { instr := .isOdd rs1, src := o } →
      exec (.isOdd rs1) s = .next { s with result := (canon s.cfg o.a).testBit 0, latch := none, done := true }) ∧
    (∀ o, s.latch = some { instr := .gt rs1 rs2, src := o } →
      exec (.gt rs1 rs2) s = .next
        { s with result := decide (canon s.cfg o.a > canon s.cfg o.b), latch := none, done := true }) ∧
    (∀ o, s.latch = some { instr := .lt rs1 rs2, src := o } →
      exec (.lt rs1 rs2) s = .next
        { s with result := decide (canon s.cfg o.a < canon s.cfg o.b), latch := none, done := true }) ∧
    (∀ a b, s.cfg.fits = true → a < s.cfg.P → b < s.cfg.P →
      (canon s.cfg 0).testBit 0 = false ∧ (canon s.cfg (mont s.cfg (s.cfg.P - 1))).testBit 0 = false ∧
      (a ≠ b → (canon s.cfg a > canon s.cfg b ↔ ¬ canon s.cfg a < canon s.cfg b)))

/-- The frame of the five compares, at accept and at completion: nothing but `RESULT`, `BUSY` and `DONE` changes, and not
one byte of `BUF`. -/
def Obligations.CompareCommandsFrame : Prop :=
  ∀ (i : Instr) (s t : State) (rs1 rs2 : FReg),
    (i = .isZero rs1 ∨ i = .eq rs1 rs2 ∨ i = .isOdd rs1 ∨ i = .gt rs1 rs2 ∨ i = .lt rs1 rs2) →
    (∀ l, s.latch = some l → l.instr = i) → exec i s = .next t →
    (∀ r : FReg, t.feAt r = s.feAt r) ∧ (∀ a, Memory.read t.buf a = Memory.read s.buf a) ∧ t.bufLen = s.bufLen ∧
    t.int = s.int ∧ t.valid = s.valid ∧ t.errIllegal = s.errIllegal ∧ t.errLen = s.errLen ∧
    t.errBusy = s.errBusy ∧ t.errRng = s.errRng ∧ t.ie = s.ie ∧ t.setA = s.setA ∧ t.setB = s.setB ∧ t.iter = s.iter ∧
    t.draw = s.draw ∧ t.rngReq = s.rngReq ∧ t.cfg = s.cfg

/-- R74, R75: `SELI` chooses by its immediate, `SELR` by `RESULT` as it stood at accept. -/
def Obligations.SelectCommandsChoose : Prop :=
  Spelled 0x00000012 0xFFE000FF (fun w => .seli (fieldRd w) (fieldRs1 w) (fieldRs2 w) (fieldCi w)) ∧
  Spelled 0x00000013 0xFFF000FF (fun w => .selr (fieldRd w) (fieldRs1 w) (fieldRs2 w)) ∧
  ∀ (rd rs1 rs2 : FReg) (ci : Bool) (s : State),
    (s.latch = none →
      exec (.seli rd rs1 rs2 ci) s = .next
        { s with
          latch := some { instr := .seli rd rs1 rs2 ci, src := { Operands.empty with a := s.feAt rs1, b := s.feAt rs2 } }
          done := false } ∧
      exec (.selr rd rs1 rs2) s = .next
        { s with
          latch := some
            { instr := .selr rd rs1 rs2
              src := { Operands.empty with a := s.feAt rs1, b := s.feAt rs2, result := s.result } }
          done := false }) ∧
    (∀ o, s.latch = some { instr := .seli rd rs1 rs2 ci, src := o } →
      exec (.seli rd rs1 rs2 ci) s = .next
        { s with fe := s.fe.set rd.val (if ci then o.b else o.a) rd.isLt, latch := none, done := true }) ∧
    (∀ o, s.latch = some { instr := .selr rd rs1 rs2, src := o } →
      exec (.selr rd rs1 rs2) s = .next
        { s with fe := s.fe.set rd.val (if o.result then o.b else o.a) rd.isLt, latch := none, done := true })

/-- R72, R73, R84: `DBL` and `SQR`, that they answer what `ADD` and `MUL` of the register with itself do, and what they
do to the value. -/
def Obligations.DoubleAndSquare : Prop :=
  Spelled 0x00000010 0xFFFF00FF (fun w => .dbl (fieldRd w) (fieldRs1 w)) ∧
  Spelled 0x00000011 0xFFFF00FF (fun w => .sqr (fieldRd w) (fieldRs1 w)) ∧
  (∀ (rd rs1 : FReg) (s : State),
    (s.latch = none →
      exec (.dbl rd rs1) s = .next
        { s with latch := some { instr := .dbl rd rs1, src := { Operands.empty with a := s.feAt rs1 } }, done := false } ∧
      exec (.sqr rd rs1) s = .next
        { s with latch := some { instr := .sqr rd rs1, src := { Operands.empty with a := s.feAt rs1 } }, done := false }) ∧
    (∀ o, s.latch = some { instr := .dbl rd rs1, src := o } →
      exec (.dbl rd rs1) s = .next
        { s with fe := s.fe.set rd.val ((2 * o.a) % s.cfg.P) rd.isLt, latch := none, done := true }) ∧
    (∀ o, s.latch = some { instr := .sqr rd rs1, src := o } →
      exec (.sqr rd rs1) s = .next
        { s with fe := s.fe.set rd.val ((o.a * o.a * s.cfg.rinv) % s.cfg.P) rd.isLt, latch := none, done := true })) ∧
  (∀ (c : Config) (a : Nat), engSquare c a = engMul c a a ∧ engAdd c a a = (2 * a) % c.P) ∧
  (∀ (c : Config) (a : Nat), c.fits = true → a < c.P →
    canon c ((2 * a) % c.P) = (2 * canon c a) % c.P ∧
    canon c ((a * a * c.rinv) % c.P) = (canon c a * canon c a) % c.P ∧
    (canon c a = (c.P + 1) / 2 → canon c ((2 * a) % c.P) = 1))

/-- R61: the expansions of `mov`, `zero` and `cmov`, and what running each from an idle block leaves in the registers. -/
def Obligations.PseudoInstructions : Prop :=
  ∀ (fd fs : FReg) (s : State), s.latch = none →
    (∃ t, runCommand (.seli fd fs fs false) 2 s = .next t ∧ t.fe = s.fe.set fd.val (s.feAt fs) fd.isLt ∧
      t.result = s.result ∧ t.valid = s.valid) ∧
    (∃ t, runCommand (.sub fd fd fd) 2 s = .next t ∧ t.fe = s.fe.set fd.val 0 fd.isLt ∧
      t.result = s.result ∧ t.valid = s.valid) ∧
    (∃ t, runCommand (.selr fd fd fs) 2 s = .next t ∧
      t.fe = s.fe.set fd.val (if s.result then s.feAt fs else s.feAt fd) fd.isLt ∧
      t.result = s.result ∧ t.valid = s.valid)

/-! ## The limb engine -/

/-- R80 to R83: `ADD`, `SUB`, `MUL` and `NEG`, with differences taken in the integers and reduced to `[0, P)`, and what
sums, differences and negations do to the values. The spec marks as derived the formula of `MUL` (R82, log 17) and what
`ADD` does to the values (R80). `NEG` has the premise that `State.Reduced` gives. -/
def Obligations.LimbEngineCommands : Prop :=
  Spelled 0x00000018 0xFFF000FF (fun w => .add (fieldRd w) (fieldRs1 w) (fieldRs2 w)) ∧
  Spelled 0x00000019 0xFFF000FF (fun w => .sub (fieldRd w) (fieldRs1 w) (fieldRs2 w)) ∧
  Spelled 0x0000001A 0xFFF000FF (fun w => .mul (fieldRd w) (fieldRs1 w) (fieldRs2 w)) ∧
  Spelled 0x0000001B 0xFFFF00FF (fun w => .neg (fieldRd w) (fieldRs1 w)) ∧
  ∀ (rd rs1 rs2 : FReg) (s : State),
    (∀ i, (i = .add rd rs1 rs2 ∨ i = .sub rd rs1 rs2 ∨ i = .mul rd rs1 rs2) → s.latch = none →
      exec i s = .next
        { s with
          latch := some { instr := i, src := { Operands.empty with a := s.feAt rs1, b := s.feAt rs2 } }
          done := false }) ∧
    (s.latch = none → exec (.neg rd rs1) s = .next
      { s with latch := some { instr := .neg rd rs1, src := { Operands.empty with a := s.feAt rs1 } }, done := false }) ∧
    (∀ o, s.latch = some { instr := .add rd rs1 rs2, src := o } →
      exec (.add rd rs1 rs2) s = .next
        { s with fe := s.fe.set rd.val ((o.a + o.b) % s.cfg.P) rd.isLt, latch := none, done := true }) ∧
    (∀ o, s.latch = some { instr := .sub rd rs1 rs2, src := o } → 0 < s.cfg.P → ∃ x : Nat,
      exec (.sub rd rs1 rs2) s = .next { s with fe := s.fe.set rd.val x rd.isLt, latch := none, done := true } ∧
      x < s.cfg.P ∧ (x : Int) = ((o.a : Int) - (o.b : Int)) % (s.cfg.P : Int)) ∧
    (∀ o, s.latch = some { instr := .mul rd rs1 rs2, src := o } →
      exec (.mul rd rs1 rs2) s = .next
        { s with fe := s.fe.set rd.val ((o.a * o.b * s.cfg.rinv) % s.cfg.P) rd.isLt, latch := none, done := true }) ∧
    (∀ o, s.latch = some { instr := .neg rd rs1, src := o } → o.a < s.cfg.P →
      exec (.neg rd rs1) s = .next
        { s with fe := s.fe.set rd.val ((s.cfg.P - o.a) % s.cfg.P) rd.isLt, latch := none, done := true }) ∧
    (∀ a b, s.cfg.fits = true → a < s.cfg.P → b < s.cfg.P →
      canon s.cfg ((a + b) % s.cfg.P) = (canon s.cfg a + canon s.cfg b) % s.cfg.P ∧
      (canon s.cfg ((s.cfg.P + a - b) % s.cfg.P) : Int) =
        ((canon s.cfg a : Int) - (canon s.cfg b : Int)) % (s.cfg.P : Int) ∧
      (canon s.cfg ((s.cfg.P - a) % s.cfg.P) : Int) = (-(canon s.cfg a : Int)) % (s.cfg.P : Int))

/-- R90: through `canon` the commands are addition, subtraction, negation, multiplication, squaring and doubling modulo
`P`. The spec marks R90 as derived. -/
def Obligations.EngineIsFieldArithmetic : Prop :=
  ∀ (c : Config) (a b : Nat), c.fits = true → a < c.P → b < c.P →
    canon c (engAdd c a b) = (canon c a + canon c b) % c.P ∧
    (canon c (engSub c a b) : Int) = ((canon c a : Int) - (canon c b : Int)) % (c.P : Int) ∧
    (canon c (engNeg c a) : Int) = (-(canon c a : Int)) % (c.P : Int) ∧
    canon c (engMul c a b) = (canon c a * canon c b) % c.P ∧
    canon c (engSquare c a) = (canon c a * canon c a) % c.P ∧
    canon c (engAdd c a a) = (2 * canon c a) % c.P ∧
    engMul c a c.montOne = a ∧ engNeg c (engNeg c a) = a ∧ engNeg c 0 = 0

/-- The frame of the commands that write one register and no flag, at accept and at completion: `DBL`, `SQR`, `SELI`,
`SELR`, `ADD`, `SUB`, `MUL`, `NEG`. -/
def Obligations.RegisterCommandsFrame : Prop :=
  ∀ (i : Instr) (s t : State) (rd rs1 rs2 : FReg) (ci : Bool),
    (i = .dbl rd rs1 ∨ i = .sqr rd rs1 ∨ i = .seli rd rs1 rs2 ci ∨ i = .selr rd rs1 rs2 ∨ i = .add rd rs1 rs2 ∨
      i = .sub rd rs1 rs2 ∨ i = .mul rd rs1 rs2 ∨ i = .neg rd rs1) →
    (∀ l, s.latch = some l → l.instr = i) → exec i s = .next t →
    (∀ r : FReg, r ≠ rd → t.feAt r = s.feAt r) ∧ (∀ a, Memory.read t.buf a = Memory.read s.buf a) ∧
    t.bufLen = s.bufLen ∧ t.int = s.int ∧ t.valid = s.valid ∧ t.result = s.result ∧ t.errIllegal = s.errIllegal ∧
    t.errLen = s.errLen ∧ t.errBusy = s.errBusy ∧ t.errRng = s.errRng ∧ t.ie = s.ie ∧ t.setA = s.setA ∧
    t.setB = s.setB ∧ t.iter = s.iter ∧ t.draw = s.draw ∧ t.rngReq = s.rngReq ∧ t.cfg = s.cfg

/-- The frame of the commands that write one register and `VALID`, at accept, at every turn and at completion:
`FROM_UINT`, `INV`, `RAND`, and `FROM_BE` and `FROM_LE`, which may also set `ERR_LEN`; `RAND` may set `ERR_RNG`. -/
def Obligations.ValidCommandsFrame : Prop :=
  ∀ (i : Instr) (s t : State) (rd rs1 : FReg),
    (i = .fromBe rd ∨ i = .fromLe rd ∨ i = .fromUint rd ∨ i = .inv rd rs1 ∨ i = .rand rd) →
    (∀ l, s.latch = some l → l.instr = i) → exec i s = .next t →
    (∀ r : FReg, r ≠ rd → t.feAt r = s.feAt r) ∧ (∀ a, Memory.read t.buf a = Memory.read s.buf a) ∧
    t.bufLen = s.bufLen ∧ t.int = s.int ∧ t.result = s.result ∧ t.errIllegal = s.errIllegal ∧
    (t.errLen = s.errLen ∨ i = .fromBe rd ∨ i = .fromLe rd) ∧ t.errBusy = s.errBusy ∧
    (t.errRng = s.errRng ∨ i = .rand rd) ∧ t.ie = s.ie ∧ t.cfg = s.cfg ∧
    (i = .inv rd rs1 ∨ (t.setA = s.setA ∧ t.setB = s.setB ∧ t.iter = s.iter)) ∧
    (i = .rand rd ∨ (t.draw = s.draw ∧ t.rngReq = s.rngReq))

/-! ## The inversion engine -/

/-- R8, R85, R86: the constants the configuration fixes, and their values in the two examples. The spec marks R86 as derived
and the prime of `P384` as general knowledge. -/
def Obligations.ConstantsOfTheConfiguration : Prop :=
  (∀ c : Config, c.fits = true →
    (c.rinv * c.radix) % c.P = 1 ∧ c.rinv < c.P ∧ c.montOne = c.radix % c.P ∧ c.msat = (c.P : Int) ∧
    (c.precomp * 2 ^ c.divsteps) % c.P = c.radix % c.P ∧ c.precomp < c.P) ∧
  (Config.toy13.limbs = 1 ∧ Config.toy13.radix = 256 ∧ Config.toy13.nb = 1 ∧ Config.toy13.nIter = 15 ∧
    Config.toy13.divsteps = 15 ∧ Config.toy13.rinv = 3 ∧ Config.toy13.montOne = 9 ∧ Config.toy13.precomp = 6 ∧
    Config.toy13.nbw = 1 ∧ Config.toy13.niw = 1) ∧
  (Config.p384.limbs = 6 ∧ Config.p384.nb = 48 ∧ Config.p384.nIter = 1111 ∧ Config.p384.divsteps = 1111 ∧
    Config.p384.nbw = 12 ∧ Config.p384.niw = 12 ∧
    Config.p384.precomp =
      0xfffe2400_0001c000_00030200_00028200_00014200_000017ff_ffff6dff_ffff4bff_00015bfe_ffffe9ff_fffb4a00_fff8c7ff)

/-- R87, R89: in the range a valid configuration keeps, a divstep is the transition of the rule in exact integers, each
halving is exact, and the new state is in the range of one more divstep. The spec marks the transition as general
knowledge and R89 as derived. -/
def Obligations.DivstepIsExactInRange : Prop :=
  ∀ (c : Config) (i : Nat) (x : DivState), c.fits = true → i < c.divsteps → DivState.InRange c i x →
    DivState.InRange c (i + 1) (divstep c x) ∧
    ((0 < x.d ∧ x.g % 2 = 1) →
      (divstep c x).d = 1 - x.d ∧ (divstep c x).f = x.g ∧ 2 * (divstep c x).g = x.g - x.f ∧
      (divstep c x).v = (2 * x.r) % c.P ∧ ((divstep c x).r : Int) = ((x.r : Int) - (x.v : Int)) % (c.P : Int)) ∧
    (¬ (0 < x.d ∧ x.g % 2 = 1) →
      (divstep c x).d = 1 + x.d ∧ (divstep c x).f = x.f ∧ 2 * (divstep c x).g = x.g + x.g % 2 * x.f ∧
      (divstep c x).v = (2 * x.v) % c.P ∧ ((divstep c x).r : Int) = ((x.r : Int) + x.g % 2 * (x.v : Int)) % (c.P : Int))

/-- R92, R93, R95, R96: `INV` as a whole: its word, and that from an idle block it completes with nothing changed but
`FE[rd]`, `VALID`, `DONE` and the hidden state: the register is the sign-corrected `v` after exactly `N_ITER` batched divsteps of
the initial state, multiplied by the correction constant, and `VALID` tells whether the input was nonzero. -/
def Obligations.InversionRunsTheAlgorithm : Prop :=
  Spelled 0x00000020 0xFFFF00FF (fun w => .inv (fieldRd w) (fieldRs1 w)) ∧
  ∀ (rd rs1 : FReg) (s : State), s.latch = none → ∃ (k : Nat) (t : State) (final : DivState),
    runCommand (.inv rd rs1) k s = .next t ∧
    final = (divstepBatch s.cfg)^[s.cfg.nIter]
      { d := 1, f := (s.cfg.P : Int), g := (canon s.cfg (s.feAt rs1) : Int), v := 0, r := s.cfg.montOne } ∧
    t = { s with
          fe := s.fe.set rd.val (engMul s.cfg
            (if signBit s.cfg.extBits final.f then engNeg s.cfg final.v else final.v) s.cfg.precomp) rd.isLt
          valid := decide (s.feAt rs1 ≠ 0)
          done := true
          setA := t.setA, setB := t.setB, iter := t.iter }

/-- The turns of `INV`: its accept, one batched iteration a turn from the current buffer set into the other, and after
`N_ITER` of them the sign correction, the final multiplication and `VALID` from the input. That a turn is one iteration is
the model's choice (log 15). -/
def Obligations.InversionTurns : Prop :=
  ∀ (rd rs1 : FReg) (s : State),
    (s.latch = none → exec (.inv rd rs1) s = .next
      { s with
        latch := some { instr := .inv rd rs1, src := { Operands.empty with a := s.feAt rs1 } }
        done := false
        setA := { d := 1, f := (s.cfg.P : Int), g := (canon s.cfg (s.feAt rs1) : Int), v := 0, r := s.cfg.montOne }
        iter := 0 }) ∧
    (∀ o, s.latch = some { instr := .inv rd rs1, src := o } → s.iter < s.cfg.nIter →
      (s.iter % 2 = 0 → exec (.inv rd rs1) s = .next { s with setB := divstepBatch s.cfg s.setA, iter := s.iter + 1 }) ∧
      (s.iter % 2 = 1 → exec (.inv rd rs1) s = .next { s with setA := divstepBatch s.cfg s.setB, iter := s.iter + 1 })) ∧
    (∀ o, s.latch = some { instr := .inv rd rs1, src := o } → s.iter = s.cfg.nIter → ∃ final : DivState,
      final = (if s.cfg.nIter % 2 = 1 then s.setB else s.setA) ∧
      exec (.inv rd rs1) s = .next
        { s with
          fe := s.fe.set rd.val (engMul s.cfg
            (if signBit s.cfg.extBits final.f then engNeg s.cfg final.v else final.v) s.cfg.precomp) rd.isLt
          valid := decide (o.a ≠ 0)
          latch := none, done := true })

/-- R94, R10: in the range of an extended limb vector, the sign bit is 1 exactly when the integer is negative. -/
def Obligations.SignBitIsTheSign : Prop :=
  ∀ (w : Nat) (x : Int), 0 < w → -(2 : Int) ^ (w - 1) ≤ x → x < (2 : Int) ^ (w - 1) → (signBit w x = true ↔ x < 0)

/-- R97 to R100: in a valid configuration `INV` of a reduced register completes after the same number of turns whatever
the register holds; of a nonzero value it leaves the Montgomery form of the inverse and `VALID = 1`, of zero it leaves 0
and `VALID = 0`. The spec marks R97 as derived; the number of turns is the model's choice (log 15). -/
def Obligations.InversionComputesTheInverse : Prop :=
  ∀ (s : State) (rd rs1 : FReg), s.cfg.Valid → s.latch = none → s.feAt rs1 < s.cfg.P →
    ∃ t, runCommand (.inv rd rs1) (s.cfg.nIter + 2) s = .next t ∧ t.latch = none ∧ t.done = true ∧
      (∀ r : FReg, r ≠ rd → t.feAt r = s.feAt r) ∧ t.feAt rd < s.cfg.P ∧
      (s.feAt rs1 ≠ 0 → t.valid = true ∧ (canon s.cfg (t.feAt rd) * canon s.cfg (s.feAt rs1)) % s.cfg.P = 1) ∧
      (s.feAt rs1 = 0 → t.valid = false ∧ t.feAt rd = 0)

/-- R99, R98: the final divstep state: `g = 0`, and `f` is 1 or -1 for a nonzero input and `P` for zero. The spec marks
R99 as derived. -/
def Obligations.FinalDivstepState : Prop :=
  ∀ (c : Config) (a : Nat), c.Valid → a < c.P →
    (divstepIter c c.divsteps (divInit c a)).g = 0 ∧
    (a ≠ 0 → (divstepIter c c.divsteps (divInit c a)).f = 1 ∨ (divstepIter c c.divsteps (divInit c a)).f = -1) ∧
    (a = 0 → (divstepIter c c.divsteps (divInit c a)).f = (c.P : Int) ∧
      (divstepIter c c.divsteps (divInit c a)).v = 0)

/-- R101, R102: `RAND`: its word, its accept with the first request, the failure, the accepted draw and the rejected one,
which leaves nothing but a fresh request. -/
def Obligations.SamplingTurns : Prop :=
  Spelled 0x00000021 0xFFFFF0FF (fun w => .rand (fieldRd w)) ∧
  ∀ (rd : FReg) (s : State),
    (s.latch = none → exec (.rand rd) s = .next
      { s with
        latch := some { instr := .rand rd, src := Operands.empty }, done := false, draw := none, rngReq := true }) ∧
    (∀ o, s.latch = some { instr := .rand rd, src := o } →
      (s.draw = some .fail → exec (.rand rd) s = .next
        { s with draw := none, errRng := true, valid := false, latch := none, done := true }) ∧
      (∀ b, s.draw = some (.bytes b) → beInt b < s.cfg.P → exec (.rand rd) s = .next
        { s with
          draw := none, fe := s.fe.set rd.val (mont s.cfg (beInt b)) rd.isLt, valid := true, latch := none,
          done := true }) ∧
      (∀ b, s.draw = some (.bytes b) → s.cfg.P ≤ beInt b → exec (.rand rd) s = .next
        { s with draw := none, rngReq := true }))

/-- R47, R121: an answer of exactly `NB` bytes or `FAIL` ends the outstanding request; without one it is ignored; a turn of a
`RAND` that has no answer changes nothing. The stop on an answer of another length is the model's choice (log 9), and so
is that a waiting turn is a step at all (log 15). -/
def Obligations.AnswersGoToTheOutstandingRequest : Prop :=
  ∀ (s : State) (b : List Byte) (a : RngAnswer), s.cfg.ok = true → s.rstN = true →
    (s.rngReq = true → b.length = s.cfg.nb →
      s.stepOn (.rng (.bytes b)) = .next { s with draw := some (.bytes b), rngReq := false }) ∧
    (s.rngReq = true → s.stepOn (.rng .fail) = .next { s with draw := some .fail, rngReq := false }) ∧
    (s.rngReq = true → b.length ≠ s.cfg.nb → s.stepOn (.rng (.bytes b)) = .fault .malformedAnswer) ∧
    (s.rngReq = false → s.stepOn (.rng a) = .next s) ∧
    (∀ rd o, s.latch = some { instr := .rand rd, src := o } → s.draw = none → s.stepOn .core = .next s)

/-! ## The whole machine -/

/-- R18, which the spec marks as derived: in every step the registers stay in `[0, P)`, and so do the operands in the
latch. -/
def Obligations.RegistersStayReduced : Prop :=
  ∀ s t : State, s.Reduced → step s = .next t → t.Reduced

/-- R19, R21: in every step the byte memory keeps its canonical form and its `NB` bytes, and `INT` its width. -/
def Obligations.BuffersStayCanonical : Prop :=
  ∀ s t : State, s.Canonical → step s = .next t → t.Canonical

/-- R29, and R89, which the spec marks as derived: in every step an inversion in flight keeps its counter within `N_ITER` and
its datapath in range, so that no word of it overflows. -/
def Obligations.DatapathStaysInRange : Prop :=
  ∀ s t : State, s.DatapathInRange → step s = .next t → t.DatapathInRange

/-- R47, R121: in every step only a `RAND` in flight has a request outstanding, and a block held in reset has nothing in
flight. -/
def Obligations.SamplerStaysConsistent : Prop :=
  ∀ s t : State, s.SamplerConsistent → step s = .next t → t.SamplerConsistent

/-- R22: a step changes `VALID` only where one of its five commands completes, a length error is reported (then to 0) or
the block is reset (then to 0). -/
def Obligations.ValidHasOnlyItsWriters : Prop :=
  ∀ s t : State, step s = .next t → t.valid ≠ s.valid →
    (∃ l rd, s.latch = some l ∧ t.latch = none ∧ t.done = true ∧
      (l.instr = .fromBe rd ∨ l.instr = .fromLe rd ∨ l.instr = .fromUint rd ∨ (∃ rs1, l.instr = .inv rd rs1) ∨
        l.instr = .rand rd)) ∨
    (s.latch = none ∧ t.latch = none ∧ s.bufLen.toNat ≠ s.cfg.nb ∧ t.errLen = true ∧ t.valid = false ∧ t.done = true) ∨
    (s.ResetNext ∧ t.valid = false)

/-- R23: a step changes `RESULT` only where one of the five compares completes or the block is reset (then to 0). -/
def Obligations.ResultHasOnlyItsWriters : Prop :=
  ∀ s t : State, step s = .next t → t.result ≠ s.result →
    (∃ l rs1, s.latch = some l ∧ t.latch = none ∧ t.done = true ∧
      (l.instr = .isZero rs1 ∨ l.instr = .isOdd rs1 ∨
        ∃ rs2, l.instr = .eq rs1 rs2 ∨ l.instr = .gt rs1 rs2 ∨ l.instr = .lt rs1 rs2)) ∨
    (s.ResetNext ∧ t.result = false)

/-- R24, R111: an error bit that is set stays set in every step but a write of `STATUS` that has its bit at 1 and a
reset. -/
def Obligations.ErrorBitsAreSticky : Prop :=
  ∀ s t : State, step s = .next t →
    s.ResetNext ∨
    (∃ v es, s.events = s.writeTo 0x014 v :: es ∧
      (s.errIllegal = true → v.getLsbD 8 = false → t.errIllegal = true) ∧
      (s.errLen = true → v.getLsbD 9 = false → t.errLen = true) ∧
      (s.errBusy = true → v.getLsbD 10 = false → t.errBusy = true) ∧
      (s.errRng = true → v.getLsbD 11 = false → t.errRng = true)) ∨
    ((s.errIllegal = true → t.errIllegal = true) ∧ (s.errLen = true → t.errLen = true) ∧
      (s.errBusy = true → t.errBusy = true) ∧ (s.errRng = true → t.errRng = true))

/-- R25: how `BUSY` and `DONE` change. A reset clears both. In every other step: a command that becomes in flight clears
`DONE`; one that ends sets it; while it is in flight it stays the same command; a command that fails before accept sets
`DONE` with `BUSY` at 0; and `DONE` is cleared in no other way but by a write of `STATUS` with bit 1 set. -/
def Obligations.BusyAndDoneChangeOnlySo : Prop :=
  ∀ s t : State, step s = .next t →
    (s.ResetNext ∧ (s.rstN = true → t.latch = none ∧ t.done = false)) ∨
    ((s.latch = none → t.latch ≠ none → t.done = false) ∧
      (s.latch ≠ none → t.latch = none → t.done = true) ∧
      (s.latch ≠ none → t.latch ≠ none → t.latch = s.latch) ∧
      (s.done = true → t.done = false →
        (s.latch = none ∧ t.latch ≠ none) ∨ ∃ v es, s.events = s.writeTo 0x014 v :: es ∧ v.getLsbD 1 = true) ∧
      (s.done = false → t.done = true → t.latch = none) ∧
      (∀ v es, s.events = s.writeTo 0x018 v :: es → s.rstN = true → s.latch = none →
        (t.latch ≠ none ∧ t.done = false) ∨ (t.latch = none ∧ t.done = true)))

/-- R32, R59: no step changes the configuration. -/
def Obligations.ConfigurationNeverChanges : Prop :=
  ∀ s t : State, step s = .next t → t.cfg = s.cfg

/-- R7: a machine of a valid configuration takes the step of its next event, and one of an invalid configuration is given
no step. The premise on `P384` is log 3: the model takes that field's validity from the spec. -/
def Obligations.OnlyValidConfigurationsStep : Prop :=
  (∀ s : State, s.cfg.Valid → step s = s.advance) ∧
  (∀ s : State, ¬ s.cfg.Valid → s.cfg.sameField Config.p384 = false → step s = .refused .invalidConfiguration)

/-- R104, R111: no command stops the machine: whatever the state, `exec` answers a next state. -/
def Obligations.NoCommandStopsTheMachine : Prop :=
  ∀ (i : Instr) (s : State), ∃ t, exec i s = .next t

/-- R131, which the spec marks as derived: two machines that differ only in secrets (register, buffer and integer contents,
`VALID`, `RESULT`, operands and datapath) and take the same inputs for any number of steps, in which the first runs no `RAND`, end alike: both still run,
with the same `BUSY`, `DONE`, error bits and `irq` and differing only in secrets, or both stopped for the same reason. The
turns of the core are inputs of the model (log 8). -/
def Obligations.TimingDoesNotDependOnSecrets : Prop :=
  ∀ (k : Nat) (s t : State), s.publicView = t.publicView →
    (∀ j u, j < k → runSteps j s = .next u → ¬ u.sampling) →
    (∃ s' t', runSteps k s = .next s' ∧ runSteps k t = .next t' ∧ s'.publicView = t'.publicView ∧ s'.irq = t'.irq ∧
      s'.busy = t'.busy) ∨
    (∃ r, runSteps k s = .fault r ∧ runSteps k t = .fault r) ∨
    (∃ r, runSteps k s = .refused r ∧ runSteps k t = .refused r)
end

