-- ==== Sys2Proof/Laws/Engine.lean ====
section
/-! SUPPORT. The limb engine's functions: bounds, the Montgomery factor as a unit modulo `P`, and narrowing in range. -/

namespace Sys2Proof

theorem Config.fits_odd {c : Config} (h : c.fits = true) : c.P % 2 = 1 := by
  simp only [Config.fits, Bool.and_eq_true, decide_eq_true_eq] at h; exact h.2.2.1

theorem Config.fits_three {c : Config} (h : c.fits = true) : 3 ≤ c.P := by
  simp only [Config.fits, Bool.and_eq_true, decide_eq_true_eq] at h; exact h.2.2.2.1

theorem Config.fits_pos {c : Config} (h : c.fits = true) : 0 < c.P := by
  have := Config.fits_three h; omega

theorem Config.fits_lt {c : Config} (h : c.fits = true) : c.P < 2 ^ c.W := by
  simp only [Config.fits, Bool.and_eq_true, decide_eq_true_eq] at h; exact h.2.2.2.2.1

theorem Config.fits_width {c : Config} (h : c.fits = true) : c.W ≤ c.intBits := by
  simp only [Config.fits, Bool.and_eq_true, decide_eq_true_eq] at h; exact h.2.2.2.2.2.1

theorem Config.fits_limbBits {c : Config} (h : c.fits = true) :
    c.limbBits = 8 ∨ c.limbBits = 16 ∨ c.limbBits = 32 ∨ c.limbBits = 64 := by
  simp only [Config.fits, Bool.and_eq_true, decide_eq_true_eq] at h; exact h.2.1

theorem Config.fits_counter {c : Config} (h : c.fits = true) : c.divsteps + 1 ≤ 2 ^ (c.limbBits - 1) - 1 := by
  simp only [Config.fits, Bool.and_eq_true, decide_eq_true_eq] at h
  exact h.2.2.2.2.2.2.2.2.2.2.2.2

/-- The widths the `PARAM` fields and the windows leave room for (R7). -/
theorem Config.fits_fields {c : Config} (h : c.fits = true) :
    0 < c.W ∧ c.nb ≤ 768 ∧ c.intBits ≤ 8192 ∧ c.W ≤ 65535 ∧ c.nIter ≤ 65535 ∧ c.limbs ≤ 255 ∧ c.batch ≤ 255 := by
  simp only [Config.fits, Bool.and_eq_true, decide_eq_true_eq] at h
  obtain ⟨h0, -, -, -, -, -, h1, h2, h3, h4, h5, h6, -⟩ := h
  exact ⟨h0, h1, h2, h3, h4, h5, h6⟩

theorem Config.ok_fits {c : Config} (h : c.ok = true) : c.fits = true := by
  simp only [Config.ok, Bool.and_eq_true] at h; exact h.1

/-- `P` fits in the bits its encoding has. -/
theorem Config.fits_lt_nb {c : Config} (h : c.fits = true) : c.P < 256 ^ c.nb := by
  have h1 := Config.fits_lt h
  have h2 : 2 ^ c.W ≤ 256 ^ c.nb := by
    rw [show (256 : Nat) = 2 ^ 8 by norm_num, ← pow_mul]
    exact Nat.pow_le_pow_right (by norm_num) (by simp only [Config.nb]; omega)
  omega

/-- `halfPow k` is `2^(-k)` modulo `P`. -/
theorem Config.halfPow_modEq {c : Config} (h : c.P % 2 = 1) (k : Nat) : c.halfPow k * 2 ^ k ≡ 1 [MOD c.P] := by
  induction k with
  | zero => simpa [Config.halfPow] using Nat.mod_modEq 1 c.P
  | succ k ih =>
    have h2 : (c.P + 1) / 2 * 2 ≡ 1 [MOD c.P] := by
      have : (c.P + 1) / 2 * 2 = c.P + 1 := by omega
      rw [this]; simp [Nat.ModEq]
    calc c.halfPow (k + 1) * 2 ^ (k + 1) ≡ c.halfPow k * ((c.P + 1) / 2) * 2 ^ (k + 1) [MOD c.P] := by
          exact (Nat.mod_modEq _ _).mul_right _
      _ = (c.halfPow k * 2 ^ k) * ((c.P + 1) / 2 * 2) := by ring
      _ ≡ 1 * 1 [MOD c.P] := ih.mul h2

theorem Config.halfPow_lt {c : Config} (h : 0 < c.P) (k : Nat) : c.halfPow k < c.P := by
  cases k <;> exact Nat.mod_lt _ h

/-- `RINV * R` is 1 modulo `P`. -/
theorem Config.rinv_modEq {c : Config} (h : c.P % 2 = 1) : c.rinv * c.radix ≡ 1 [MOD c.P] := Config.halfPow_modEq h _

namespace Machine

theorem mont_lt {c : Config} (h : 0 < c.P) (x : Nat) : mont c x < c.P := Nat.mod_lt _ h

theorem canon_lt {c : Config} (h : 0 < c.P) (x : Nat) : canon c x < c.P := Nat.mod_lt _ h

theorem mont_modEq (c : Config) (x : Nat) : mont c x ≡ x * c.radix [MOD c.P] := Nat.mod_modEq _ _

theorem canon_modEq (c : Config) (x : Nat) : canon c x ≡ x * c.rinv [MOD c.P] := Nat.mod_modEq _ _

/-- Out of Montgomery form and back. -/
theorem canon_radix {c : Config} (h : c.P % 2 = 1) (m : Nat) : canon c m * c.radix ≡ m [MOD c.P] := by
  calc canon c m * c.radix ≡ m * c.rinv * c.radix [MOD c.P] := (canon_modEq c m).mul_right _
    _ = m * (c.rinv * c.radix) := by ring
    _ ≡ m * 1 [MOD c.P] := (Config.rinv_modEq h).mul_left _
    _ = m := by ring

/-- Two residues with the same canonical value are equal modulo `P`. -/
theorem modEq_of_canon {c : Config} (h : c.P % 2 = 1) {m n : Nat} (hc : canon c m = canon c n) : m ≡ n [MOD c.P] :=
  (canon_radix h m).symm.trans (hc ▸ canon_radix h n)

/-- Equal residues have equal canonical values. -/
theorem canon_congr {c : Config} {x y : Nat} (h : x ≡ y [MOD c.P]) : canon c x = canon c y := h.mul_right _

/-- The canonical value as an integer. -/
theorem canon_cast (c : Config) (x : Nat) : (canon c x : Int) = ((x : Int) * (c.rinv : Int)) % (c.P : Int) := by
  simp [canon]

theorem canon_zero (c : Config) : canon c 0 = 0 := by simp [canon]

theorem engAdd_lt {c : Config} (h : 0 < c.P) (a b : Nat) : engAdd c a b < c.P := Nat.mod_lt _ h

theorem engMul_lt {c : Config} (h : 0 < c.P) (a b : Nat) : engMul c a b < c.P := Nat.mod_lt _ h

theorem engSquare_lt {c : Config} (h : 0 < c.P) (a : Nat) : engSquare c a < c.P := Nat.mod_lt _ h

theorem toNat_emod_lt {p : Nat} (h : 0 < p) (x : Int) : (x % (p : Int)).toNat < p := by
  have h1 := Int.emod_lt_of_pos x (show (0 : Int) < p by omega)
  have h2 := Int.emod_nonneg x (show (p : Int) ≠ 0 by omega)
  omega

theorem toNat_emod {p : Nat} (h : 0 < p) (x : Int) : ((x % (p : Int)).toNat : Int) = x % (p : Int) :=
  Int.toNat_of_nonneg (Int.emod_nonneg x (by omega))

theorem engSub_lt {c : Config} (h : 0 < c.P) (a b : Nat) : engSub c a b < c.P := toNat_emod_lt h _

theorem engNeg_lt {c : Config} (h : 0 < c.P) (a : Nat) : engNeg c a < c.P := toNat_emod_lt h _

/-- The difference as an integer. -/
theorem engSub_cast {c : Config} (h : 0 < c.P) (a b : Nat) :
    (engSub c a b : Int) = ((a : Int) - (b : Int)) % (c.P : Int) := toNat_emod h _

/-- The negation as an integer. -/
theorem engNeg_cast {c : Config} (h : 0 < c.P) (a : Nat) : (engNeg c a : Int) = ((c.P : Int) - (a : Int)) % (c.P : Int) :=
  toNat_emod h _

theorem ctSelect_lt {p a b : Nat} (ch : Bool) (ha : a < p) (hb : b < p) : ctSelect ch a b < p := by
  unfold ctSelect; split <;> assumption

/-- An integer in the range of the word is what the word holds. -/
theorem narrow_eq {w : Nat} {x : Int} (hw : 0 < w) (h1 : -(2 : Int) ^ (w - 1) ≤ x) (h2 : x < (2 : Int) ^ (w - 1)) :
    narrow w x = x := by
  have e : (2 : Int) ^ w = 2 * 2 ^ (w - 1) := by
    conv_lhs => rw [show w = (w - 1) + 1 by omega, pow_succ]
    ring
  unfold narrow
  have e2 : ((2 ^ w : Nat) : Int) = 2 * 2 ^ (w - 1) := by push_cast; exact e
  rw [Int.bmod_def]
  rw [e2]
  generalize (2 : Int) ^ (w - 1) = q at *
  split
  · next h =>
    rcases lt_or_ge x 0 with hx | hx
    · exfalso
      have : x % (2 * q) = x + 2 * q := by
        rw [← Int.add_emod_right]; exact Int.emod_eq_of_lt (by omega) (by omega)
      omega
    · rw [Int.emod_eq_of_lt (by omega) (by omega)]
  · next h =>
    rcases lt_or_ge x 0 with hx | hx
    · have : x % (2 * q) = x + 2 * q := by
        rw [← Int.add_emod_right]; exact Int.emod_eq_of_lt (by omega) (by omega)
      omega
    · exfalso
      rw [Int.emod_eq_of_lt (by omega) (by omega)] at h
      omega

/-- Turns of the divstep, one at the end. -/
theorem divstepIter_succ (c : Config) (k : Nat) (x : DivState) :
    divstepIter c (k + 1) x = divstep c (divstepIter c k x) := by
  induction k generalizing x with
  | zero => rfl
  | succ k ih => exact ih (divstep c x)

/-- With `BATCH = 1` a batched iteration is one divstep (R88). -/
theorem divstepBatch_eq (c : Config) (x : DivState) : divstepBatch c x = divstep c x := rfl

/-- Whatever goes in, the residues come out reduced. -/
theorem divResult_lt {c : Config} (h : 0 < c.P) (x : DivState) : divResult c x < c.P := engMul_lt h _ _

end Machine

end Sys2Proof
end

