-- ==== Sys2Proof/Laws/Memory.lean ====
section
/-! SUPPORT. Byte memory: a read after a write, and that every operation keeps the canonical form. -/

namespace Sys2Proof.Machine

@[simp] theorem Memory.read_nil (a : Nat) : Memory.read [] a = 0 := rfl

theorem Memory.read_put (a : Nat) (b : Byte) (m : Memory) (h : Memory.read m a = 0) (c : Nat) :
    Memory.read (Memory.put a b m) c = if c = a then b else Memory.read m c := by
  unfold Memory.put
  split
  · next hb =>
    split
    · next hc => rw [hc, h, hb]
    · rfl
  · simp [Memory.read]

/-- In a memory whose indices all exceed `a`, index `a` is unlisted. -/
theorem Memory.read_of_lt {m : Memory} {a : Nat} (h : m.all (fun cell => decide (a < cell.1)) = true) :
    Memory.read m a = 0 := by
  induction m with
  | nil => rfl
  | cons cell m ih =>
    obtain ⟨k, v⟩ := cell
    simp only [List.all_cons, Bool.and_eq_true, decide_eq_true_eq] at h
    have : a ≠ k := by omega
    simpa [Memory.read, this] using ih h.2

theorem Memory.wf_cons {k : Nat} {v : Byte} {m : Memory} : Memory.wf ((k, v) :: m) = true ↔
    v ≠ 0 ∧ m.all (fun cell => decide (k < cell.1)) = true ∧ Memory.wf m = true := by
  simp [Memory.wf, and_assoc]

theorem Memory.all_lt_trans {m : Memory} {a k : Nat} (h : a < k)
    (hm : m.all (fun cell => decide (k < cell.1)) = true) : m.all (fun cell => decide (a < cell.1)) = true := by
  simp only [List.all_eq_true, decide_eq_true_eq] at *
  exact fun c hc => by have := hm c hc; omega

/-- A write leaves every other index alone. -/
theorem Memory.read_write_other (m : Memory) {a c : Nat} (b : Byte) (h : c ≠ a) :
    Memory.read (Memory.write m a b) c = Memory.read m c := by
  induction m with
  | nil => simp only [Memory.write, Memory.put]; split <;> simp [Memory.read, h]
  | cons cell m ih =>
    obtain ⟨k, v⟩ := cell
    simp only [Memory.write]
    split
    · simp only [Memory.put]; split <;> simp [Memory.read, h]
    split
    · next hk => subst hk; simp only [Memory.put]; split <;> simp [Memory.read, h]
    · simp only [Memory.read, ih]

/-- A read after a write to the same index gives the byte written. -/
theorem Memory.read_write_same {m : Memory} (hm : Memory.wf m = true) (a : Nat) (b : Byte) :
    Memory.read (Memory.write m a b) a = b := by
  induction m with
  | nil => rw [Memory.write, Memory.read_put _ _ _ rfl]; simp
  | cons cell m ih =>
    obtain ⟨k, v⟩ := cell
    obtain ⟨_, hall, hwf⟩ := Memory.wf_cons.1 hm
    simp only [Memory.write]
    split
    · next h =>
      rw [Memory.read_put _ _ _ (by simpa [Memory.read, Nat.ne_of_lt h] using Memory.read_of_lt (Memory.all_lt_trans h hall))]
      simp
    split
    · next h => subst h; rw [Memory.read_put _ _ _ (Memory.read_of_lt hall)]; simp
    · next h => simpa [Memory.read, h] using ih hwf

theorem Memory.read_write {m : Memory} (hm : Memory.wf m = true) (a c : Nat) (b : Byte) :
    Memory.read (Memory.write m a b) c = if c = a then b else Memory.read m c := by
  split
  · next h => rw [h, Memory.read_write_same hm]
  · next h => exact Memory.read_write_other m b h

theorem Memory.all_put {p : Host.Cell → Bool} {a : Nat} {b : Byte} {m : Memory} (hp : p (a, b) = true)
    (hm : m.all p = true) : (Memory.put a b m).all p = true := by
  unfold Memory.put
  split
  · exact hm
  · simp only [List.all_cons, hp, hm, Bool.and_self]

/-- A property of cells that holds of every cell and of the one written holds of every cell after. -/
theorem Memory.all_write {p : Host.Cell → Bool} {a : Nat} {b : Byte} (hp : p (a, b) = true) :
    ∀ {m : Memory}, m.all p = true → (Memory.write m a b).all p = true
  | [], _ => Memory.all_put hp rfl
  | (k, v) :: m, hm => by
    have h := hm
    simp only [List.all_cons, Bool.and_eq_true] at h
    simp only [Memory.write]
    split
    · exact Memory.all_put hp hm
    split
    · exact Memory.all_put hp h.2
    · simp only [List.all_cons, h.1, Memory.all_write hp h.2, Bool.and_self]

theorem Memory.wf_put {a : Nat} {b : Byte} {m : Memory} (hm : Memory.wf m = true)
    (h : m.all (fun cell => decide (a < cell.1)) = true) : Memory.wf (Memory.put a b m) = true := by
  unfold Memory.put
  split
  · exact hm
  · next hb => exact Memory.wf_cons.2 ⟨hb, h, hm⟩

/-- A write keeps the canonical form. -/
theorem Memory.wf_write {m : Memory} (hm : Memory.wf m = true) (a : Nat) (b : Byte) :
    Memory.wf (Memory.write m a b) = true := by
  induction m with
  | nil => exact Memory.wf_put rfl rfl
  | cons cell m ih =>
    obtain ⟨k, v⟩ := cell
    obtain ⟨hv, hall, hwf⟩ := Memory.wf_cons.1 hm
    simp only [Memory.write]
    split
    · next h => exact Memory.wf_put hm (by simpa [h] using Memory.all_lt_trans h hall)
    split
    · next h => subst h; exact Memory.wf_put hwf hall
    · next h1 h2 => exact Memory.wf_cons.2 ⟨hv, Memory.all_write (by simp; omega) hall, ih hwf⟩

/-- A write keeps the listed indices below a bound it respects. -/
theorem Memory.below_write {m : Memory} {n a : Nat} (b : Byte) (hm : Memory.below n m = true) (ha : a < n) :
    Memory.below n (Memory.write m a b) = true := Memory.all_write (by simpa using ha) hm

theorem Memory.wf_writeBytes (bs : List Byte) : ∀ {m : Memory} (a : Nat), Memory.wf m = true →
    Memory.wf (Memory.writeBytes m a bs) = true := by
  induction bs with
  | nil => exact fun _ h => h
  | cons b bs ih => exact fun a h => ih (a + 1) (Memory.wf_write h a b)

theorem Memory.below_writeBytes (bs : List Byte) : ∀ {m : Memory} {n a : Nat}, Memory.below n m = true →
    a + bs.length ≤ n → Memory.below n (Memory.writeBytes m a bs) = true := by
  induction bs with
  | nil => exact fun h _ => h
  | cons b bs ih =>
    intro m n a h hn
    simp only [List.length_cons] at hn
    exact ih (Memory.below_write b h (by omega)) (by omega)

/-- What a run of bytes leaves at an index outside it. -/
theorem Memory.read_writeBytes_other (bs : List Byte) : ∀ (m : Memory) (a c : Nat), (c < a ∨ a + bs.length ≤ c) →
    Memory.read (Memory.writeBytes m a bs) c = Memory.read m c := by
  induction bs with
  | nil => exact fun _ _ _ _ => rfl
  | cons b bs ih =>
    intro m a c h
    simp only [List.length_cons] at h
    rw [Memory.writeBytes, ih _ _ _ (by omega), Memory.read_write_other _ _ (by omega)]

/-- What a run of bytes leaves at an index inside it. -/
theorem Memory.read_writeBytes (bs : List Byte) : ∀ {m : Memory} (a j : Nat), Memory.wf m = true → j < bs.length →
    Memory.read (Memory.writeBytes m a bs) (a + j) = bs.getD j 0 := by
  induction bs with
  | nil => intro m a j _ h; simp at h
  | cons b bs ih =>
    intro m a j hm h
    cases j with
    | zero =>
      rw [Memory.writeBytes, Memory.read_writeBytes_other _ _ _ _ (by omega)]
      simp [Memory.read_write_same hm]
    | succ j =>
      have := ih (a + 1) j (Memory.wf_write hm a b) (by simpa using h)
      rw [Memory.writeBytes, show a + (j + 1) = a + 1 + j by omega, this]
      simp

/-- Reading back a run of bytes written from index 0. -/
theorem Memory.readBytes_writeBytes {m : Memory} (hm : Memory.wf m = true) (bs : List Byte) :
    Memory.readBytes (Memory.writeBytes m 0 bs) bs.length = bs := by
  apply List.ext_getElem
  · simp [Memory.readBytes]
  · intro j h1 h2
    have := Memory.read_writeBytes bs 0 j hm h2
    simp only [Nat.zero_add] at this
    simp [Memory.readBytes, this, h2]

@[simp] theorem Memory.readBytes_length (m : Memory) (n : Nat) : (Memory.readBytes m n).length = n := by
  simp [Memory.readBytes]

/-- The memory at reset has the canonical form. -/
theorem State.resetOf_wf (c : Config) : Memory.wf (State.resetOf c).buf = true := rfl

end Sys2Proof.Machine
end

