-- ==== Sys2Proof/Laws/State.lean ====
section
/-! SUPPORT. One lemma per field per update of the state, true by rfl, so that no proof unfolds a record update. -/

namespace Sys2Proof.Machine

@[simp] theorem State.setFE_cfg (s : State) (i : FReg) (v : Nat) : (s.setFE i v).cfg = s.cfg := rfl
@[simp] theorem State.setFE_fe (s : State) (i : FReg) (v : Nat) : (s.setFE i v).fe = s.fe.set i.val v i.isLt := rfl
@[simp] theorem State.setFE_buf (s : State) (i : FReg) (v : Nat) : (s.setFE i v).buf = s.buf := rfl
@[simp] theorem State.setFE_bufLen (s : State) (i : FReg) (v : Nat) : (s.setFE i v).bufLen = s.bufLen := rfl
@[simp] theorem State.setFE_int (s : State) (i : FReg) (v : Nat) : (s.setFE i v).int = s.int := rfl
@[simp] theorem State.setFE_done (s : State) (i : FReg) (v : Nat) : (s.setFE i v).done = s.done := rfl
@[simp] theorem State.setFE_valid (s : State) (i : FReg) (v : Nat) : (s.setFE i v).valid = s.valid := rfl
@[simp] theorem State.setFE_result (s : State) (i : FReg) (v : Nat) : (s.setFE i v).result = s.result := rfl
@[simp] theorem State.setFE_errIllegal (s : State) (i : FReg) (v : Nat) : (s.setFE i v).errIllegal = s.errIllegal := rfl
@[simp] theorem State.setFE_errLen (s : State) (i : FReg) (v : Nat) : (s.setFE i v).errLen = s.errLen := rfl
@[simp] theorem State.setFE_errBusy (s : State) (i : FReg) (v : Nat) : (s.setFE i v).errBusy = s.errBusy := rfl
@[simp] theorem State.setFE_errRng (s : State) (i : FReg) (v : Nat) : (s.setFE i v).errRng = s.errRng := rfl
@[simp] theorem State.setFE_ie (s : State) (i : FReg) (v : Nat) : (s.setFE i v).ie = s.ie := rfl
@[simp] theorem State.setFE_latch (s : State) (i : FReg) (v : Nat) : (s.setFE i v).latch = s.latch := rfl
@[simp] theorem State.setFE_setA (s : State) (i : FReg) (v : Nat) : (s.setFE i v).setA = s.setA := rfl
@[simp] theorem State.setFE_setB (s : State) (i : FReg) (v : Nat) : (s.setFE i v).setB = s.setB := rfl
@[simp] theorem State.setFE_iter (s : State) (i : FReg) (v : Nat) : (s.setFE i v).iter = s.iter := rfl
@[simp] theorem State.setFE_draw (s : State) (i : FReg) (v : Nat) : (s.setFE i v).draw = s.draw := rfl
@[simp] theorem State.setFE_rngReq (s : State) (i : FReg) (v : Nat) : (s.setFE i v).rngReq = s.rngReq := rfl
@[simp] theorem State.setFE_rstN (s : State) (i : FReg) (v : Nat) : (s.setFE i v).rstN = s.rstN := rfl
@[simp] theorem State.setFE_events (s : State) (i : FReg) (v : Nat) : (s.setFE i v).events = s.events := rfl
@[simp] theorem State.setFE_resp (s : State) (i : FReg) (v : Nat) : (s.setFE i v).resp = s.resp := rfl
@[simp] theorem State.setFE_free (s : State) (i : FReg) (v : Nat) : (s.setFE i v).free = s.free := rfl

@[simp] theorem State.setValid_cfg (s : State) (b : Bool) : (s.setValid b).cfg = s.cfg := rfl
@[simp] theorem State.setValid_fe (s : State) (b : Bool) : (s.setValid b).fe = s.fe := rfl
@[simp] theorem State.setValid_buf (s : State) (b : Bool) : (s.setValid b).buf = s.buf := rfl
@[simp] theorem State.setValid_bufLen (s : State) (b : Bool) : (s.setValid b).bufLen = s.bufLen := rfl
@[simp] theorem State.setValid_int (s : State) (b : Bool) : (s.setValid b).int = s.int := rfl
@[simp] theorem State.setValid_done (s : State) (b : Bool) : (s.setValid b).done = s.done := rfl
@[simp] theorem State.setValid_valid (s : State) (b : Bool) : (s.setValid b).valid = b := rfl
@[simp] theorem State.setValid_result (s : State) (b : Bool) : (s.setValid b).result = s.result := rfl
@[simp] theorem State.setValid_errIllegal (s : State) (b : Bool) : (s.setValid b).errIllegal = s.errIllegal := rfl
@[simp] theorem State.setValid_errLen (s : State) (b : Bool) : (s.setValid b).errLen = s.errLen := rfl
@[simp] theorem State.setValid_errBusy (s : State) (b : Bool) : (s.setValid b).errBusy = s.errBusy := rfl
@[simp] theorem State.setValid_errRng (s : State) (b : Bool) : (s.setValid b).errRng = s.errRng := rfl
@[simp] theorem State.setValid_ie (s : State) (b : Bool) : (s.setValid b).ie = s.ie := rfl
@[simp] theorem State.setValid_latch (s : State) (b : Bool) : (s.setValid b).latch = s.latch := rfl
@[simp] theorem State.setValid_setA (s : State) (b : Bool) : (s.setValid b).setA = s.setA := rfl
@[simp] theorem State.setValid_setB (s : State) (b : Bool) : (s.setValid b).setB = s.setB := rfl
@[simp] theorem State.setValid_iter (s : State) (b : Bool) : (s.setValid b).iter = s.iter := rfl
@[simp] theorem State.setValid_draw (s : State) (b : Bool) : (s.setValid b).draw = s.draw := rfl
@[simp] theorem State.setValid_rngReq (s : State) (b : Bool) : (s.setValid b).rngReq = s.rngReq := rfl
@[simp] theorem State.setValid_rstN (s : State) (b : Bool) : (s.setValid b).rstN = s.rstN := rfl
@[simp] theorem State.setValid_events (s : State) (b : Bool) : (s.setValid b).events = s.events := rfl
@[simp] theorem State.setValid_resp (s : State) (b : Bool) : (s.setValid b).resp = s.resp := rfl
@[simp] theorem State.setValid_free (s : State) (b : Bool) : (s.setValid b).free = s.free := rfl

@[simp] theorem State.setResult_cfg (s : State) (b : Bool) : (s.setResult b).cfg = s.cfg := rfl
@[simp] theorem State.setResult_fe (s : State) (b : Bool) : (s.setResult b).fe = s.fe := rfl
@[simp] theorem State.setResult_buf (s : State) (b : Bool) : (s.setResult b).buf = s.buf := rfl
@[simp] theorem State.setResult_bufLen (s : State) (b : Bool) : (s.setResult b).bufLen = s.bufLen := rfl
@[simp] theorem State.setResult_int (s : State) (b : Bool) : (s.setResult b).int = s.int := rfl
@[simp] theorem State.setResult_done (s : State) (b : Bool) : (s.setResult b).done = s.done := rfl
@[simp] theorem State.setResult_valid (s : State) (b : Bool) : (s.setResult b).valid = s.valid := rfl
@[simp] theorem State.setResult_result (s : State) (b : Bool) : (s.setResult b).result = b := rfl
@[simp] theorem State.setResult_errIllegal (s : State) (b : Bool) : (s.setResult b).errIllegal = s.errIllegal := rfl
@[simp] theorem State.setResult_errLen (s : State) (b : Bool) : (s.setResult b).errLen = s.errLen := rfl
@[simp] theorem State.setResult_errBusy (s : State) (b : Bool) : (s.setResult b).errBusy = s.errBusy := rfl
@[simp] theorem State.setResult_errRng (s : State) (b : Bool) : (s.setResult b).errRng = s.errRng := rfl
@[simp] theorem State.setResult_ie (s : State) (b : Bool) : (s.setResult b).ie = s.ie := rfl
@[simp] theorem State.setResult_latch (s : State) (b : Bool) : (s.setResult b).latch = s.latch := rfl
@[simp] theorem State.setResult_setA (s : State) (b : Bool) : (s.setResult b).setA = s.setA := rfl
@[simp] theorem State.setResult_setB (s : State) (b : Bool) : (s.setResult b).setB = s.setB := rfl
@[simp] theorem State.setResult_iter (s : State) (b : Bool) : (s.setResult b).iter = s.iter := rfl
@[simp] theorem State.setResult_draw (s : State) (b : Bool) : (s.setResult b).draw = s.draw := rfl
@[simp] theorem State.setResult_rngReq (s : State) (b : Bool) : (s.setResult b).rngReq = s.rngReq := rfl
@[simp] theorem State.setResult_rstN (s : State) (b : Bool) : (s.setResult b).rstN = s.rstN := rfl
@[simp] theorem State.setResult_events (s : State) (b : Bool) : (s.setResult b).events = s.events := rfl
@[simp] theorem State.setResult_resp (s : State) (b : Bool) : (s.setResult b).resp = s.resp := rfl
@[simp] theorem State.setResult_free (s : State) (b : Bool) : (s.setResult b).free = s.free := rfl

@[simp] theorem State.illegalCommand_cfg (s : State) : (s.illegalCommand).cfg = s.cfg := rfl
@[simp] theorem State.illegalCommand_fe (s : State) : (s.illegalCommand).fe = s.fe := rfl
@[simp] theorem State.illegalCommand_buf (s : State) : (s.illegalCommand).buf = s.buf := rfl
@[simp] theorem State.illegalCommand_bufLen (s : State) : (s.illegalCommand).bufLen = s.bufLen := rfl
@[simp] theorem State.illegalCommand_int (s : State) : (s.illegalCommand).int = s.int := rfl
@[simp] theorem State.illegalCommand_done (s : State) : (s.illegalCommand).done = true := rfl
@[simp] theorem State.illegalCommand_valid (s : State) : (s.illegalCommand).valid = s.valid := rfl
@[simp] theorem State.illegalCommand_result (s : State) : (s.illegalCommand).result = s.result := rfl
@[simp] theorem State.illegalCommand_errIllegal (s : State) : (s.illegalCommand).errIllegal = true := rfl
@[simp] theorem State.illegalCommand_errLen (s : State) : (s.illegalCommand).errLen = s.errLen := rfl
@[simp] theorem State.illegalCommand_errBusy (s : State) : (s.illegalCommand).errBusy = s.errBusy := rfl
@[simp] theorem State.illegalCommand_errRng (s : State) : (s.illegalCommand).errRng = s.errRng := rfl
@[simp] theorem State.illegalCommand_ie (s : State) : (s.illegalCommand).ie = s.ie := rfl
@[simp] theorem State.illegalCommand_latch (s : State) : (s.illegalCommand).latch = s.latch := rfl
@[simp] theorem State.illegalCommand_setA (s : State) : (s.illegalCommand).setA = s.setA := rfl
@[simp] theorem State.illegalCommand_setB (s : State) : (s.illegalCommand).setB = s.setB := rfl
@[simp] theorem State.illegalCommand_iter (s : State) : (s.illegalCommand).iter = s.iter := rfl
@[simp] theorem State.illegalCommand_draw (s : State) : (s.illegalCommand).draw = s.draw := rfl
@[simp] theorem State.illegalCommand_rngReq (s : State) : (s.illegalCommand).rngReq = s.rngReq := rfl
@[simp] theorem State.illegalCommand_rstN (s : State) : (s.illegalCommand).rstN = s.rstN := rfl
@[simp] theorem State.illegalCommand_events (s : State) : (s.illegalCommand).events = s.events := rfl
@[simp] theorem State.illegalCommand_resp (s : State) : (s.illegalCommand).resp = s.resp := rfl
@[simp] theorem State.illegalCommand_free (s : State) : (s.illegalCommand).free = s.free := rfl

@[simp] theorem State.lengthError_cfg (s : State) : (s.lengthError).cfg = s.cfg := rfl
@[simp] theorem State.lengthError_fe (s : State) : (s.lengthError).fe = s.fe := rfl
@[simp] theorem State.lengthError_buf (s : State) : (s.lengthError).buf = s.buf := rfl
@[simp] theorem State.lengthError_bufLen (s : State) : (s.lengthError).bufLen = s.bufLen := rfl
@[simp] theorem State.lengthError_int (s : State) : (s.lengthError).int = s.int := rfl
@[simp] theorem State.lengthError_done (s : State) : (s.lengthError).done = true := rfl
@[simp] theorem State.lengthError_valid (s : State) : (s.lengthError).valid = false := rfl
@[simp] theorem State.lengthError_result (s : State) : (s.lengthError).result = s.result := rfl
@[simp] theorem State.lengthError_errIllegal (s : State) : (s.lengthError).errIllegal = s.errIllegal := rfl
@[simp] theorem State.lengthError_errLen (s : State) : (s.lengthError).errLen = true := rfl
@[simp] theorem State.lengthError_errBusy (s : State) : (s.lengthError).errBusy = s.errBusy := rfl
@[simp] theorem State.lengthError_errRng (s : State) : (s.lengthError).errRng = s.errRng := rfl
@[simp] theorem State.lengthError_ie (s : State) : (s.lengthError).ie = s.ie := rfl
@[simp] theorem State.lengthError_latch (s : State) : (s.lengthError).latch = s.latch := rfl
@[simp] theorem State.lengthError_setA (s : State) : (s.lengthError).setA = s.setA := rfl
@[simp] theorem State.lengthError_setB (s : State) : (s.lengthError).setB = s.setB := rfl
@[simp] theorem State.lengthError_iter (s : State) : (s.lengthError).iter = s.iter := rfl
@[simp] theorem State.lengthError_draw (s : State) : (s.lengthError).draw = s.draw := rfl
@[simp] theorem State.lengthError_rngReq (s : State) : (s.lengthError).rngReq = s.rngReq := rfl
@[simp] theorem State.lengthError_rstN (s : State) : (s.lengthError).rstN = s.rstN := rfl
@[simp] theorem State.lengthError_events (s : State) : (s.lengthError).events = s.events := rfl
@[simp] theorem State.lengthError_resp (s : State) : (s.lengthError).resp = s.resp := rfl
@[simp] theorem State.lengthError_free (s : State) : (s.lengthError).free = s.free := rfl

@[simp] theorem State.accept_cfg (s : State) (i : Instr) (o : Operands) : (s.accept i o).cfg = s.cfg := rfl
@[simp] theorem State.accept_fe (s : State) (i : Instr) (o : Operands) : (s.accept i o).fe = s.fe := rfl
@[simp] theorem State.accept_buf (s : State) (i : Instr) (o : Operands) : (s.accept i o).buf = s.buf := rfl
@[simp] theorem State.accept_bufLen (s : State) (i : Instr) (o : Operands) : (s.accept i o).bufLen = s.bufLen := rfl
@[simp] theorem State.accept_int (s : State) (i : Instr) (o : Operands) : (s.accept i o).int = s.int := rfl
@[simp] theorem State.accept_done (s : State) (i : Instr) (o : Operands) : (s.accept i o).done = false := rfl
@[simp] theorem State.accept_valid (s : State) (i : Instr) (o : Operands) : (s.accept i o).valid = s.valid := rfl
@[simp] theorem State.accept_result (s : State) (i : Instr) (o : Operands) : (s.accept i o).result = s.result := rfl
@[simp] theorem State.accept_errIllegal (s : State) (i : Instr) (o : Operands) : (s.accept i o).errIllegal = s.errIllegal := rfl
@[simp] theorem State.accept_errLen (s : State) (i : Instr) (o : Operands) : (s.accept i o).errLen = s.errLen := rfl
@[simp] theorem State.accept_errBusy (s : State) (i : Instr) (o : Operands) : (s.accept i o).errBusy = s.errBusy := rfl
@[simp] theorem State.accept_errRng (s : State) (i : Instr) (o : Operands) : (s.accept i o).errRng = s.errRng := rfl
@[simp] theorem State.accept_ie (s : State) (i : Instr) (o : Operands) : (s.accept i o).ie = s.ie := rfl
@[simp] theorem State.accept_latch (s : State) (i : Instr) (o : Operands) : (s.accept i o).latch = some { instr := i, src := o } := rfl
@[simp] theorem State.accept_setA (s : State) (i : Instr) (o : Operands) : (s.accept i o).setA = s.setA := rfl
@[simp] theorem State.accept_setB (s : State) (i : Instr) (o : Operands) : (s.accept i o).setB = s.setB := rfl
@[simp] theorem State.accept_iter (s : State) (i : Instr) (o : Operands) : (s.accept i o).iter = s.iter := rfl
@[simp] theorem State.accept_draw (s : State) (i : Instr) (o : Operands) : (s.accept i o).draw = s.draw := rfl
@[simp] theorem State.accept_rngReq (s : State) (i : Instr) (o : Operands) : (s.accept i o).rngReq = s.rngReq := rfl
@[simp] theorem State.accept_rstN (s : State) (i : Instr) (o : Operands) : (s.accept i o).rstN = s.rstN := rfl
@[simp] theorem State.accept_events (s : State) (i : Instr) (o : Operands) : (s.accept i o).events = s.events := rfl
@[simp] theorem State.accept_resp (s : State) (i : Instr) (o : Operands) : (s.accept i o).resp = s.resp := rfl
@[simp] theorem State.accept_free (s : State) (i : Instr) (o : Operands) : (s.accept i o).free = s.free := rfl

@[simp] theorem State.complete_cfg (s : State) : (s.complete).cfg = s.cfg := rfl
@[simp] theorem State.complete_fe (s : State) : (s.complete).fe = s.fe := rfl
@[simp] theorem State.complete_buf (s : State) : (s.complete).buf = s.buf := rfl
@[simp] theorem State.complete_bufLen (s : State) : (s.complete).bufLen = s.bufLen := rfl
@[simp] theorem State.complete_int (s : State) : (s.complete).int = s.int := rfl
@[simp] theorem State.complete_done (s : State) : (s.complete).done = true := rfl
@[simp] theorem State.complete_valid (s : State) : (s.complete).valid = s.valid := rfl
@[simp] theorem State.complete_result (s : State) : (s.complete).result = s.result := rfl
@[simp] theorem State.complete_errIllegal (s : State) : (s.complete).errIllegal = s.errIllegal := rfl
@[simp] theorem State.complete_errLen (s : State) : (s.complete).errLen = s.errLen := rfl
@[simp] theorem State.complete_errBusy (s : State) : (s.complete).errBusy = s.errBusy := rfl
@[simp] theorem State.complete_errRng (s : State) : (s.complete).errRng = s.errRng := rfl
@[simp] theorem State.complete_ie (s : State) : (s.complete).ie = s.ie := rfl
@[simp] theorem State.complete_latch (s : State) : (s.complete).latch = none := rfl
@[simp] theorem State.complete_setA (s : State) : (s.complete).setA = s.setA := rfl
@[simp] theorem State.complete_setB (s : State) : (s.complete).setB = s.setB := rfl
@[simp] theorem State.complete_iter (s : State) : (s.complete).iter = s.iter := rfl
@[simp] theorem State.complete_draw (s : State) : (s.complete).draw = s.draw := rfl
@[simp] theorem State.complete_rngReq (s : State) : (s.complete).rngReq = s.rngReq := rfl
@[simp] theorem State.complete_rstN (s : State) : (s.complete).rstN = s.rstN := rfl
@[simp] theorem State.complete_events (s : State) : (s.complete).events = s.events := rfl
@[simp] theorem State.complete_resp (s : State) : (s.complete).resp = s.resp := rfl
@[simp] theorem State.complete_free (s : State) : (s.complete).free = s.free := rfl

@[simp] theorem State.request_cfg (s : State) : (s.request).cfg = s.cfg := rfl
@[simp] theorem State.request_fe (s : State) : (s.request).fe = s.fe := rfl
@[simp] theorem State.request_buf (s : State) : (s.request).buf = s.buf := rfl
@[simp] theorem State.request_bufLen (s : State) : (s.request).bufLen = s.bufLen := rfl
@[simp] theorem State.request_int (s : State) : (s.request).int = s.int := rfl
@[simp] theorem State.request_done (s : State) : (s.request).done = s.done := rfl
@[simp] theorem State.request_valid (s : State) : (s.request).valid = s.valid := rfl
@[simp] theorem State.request_result (s : State) : (s.request).result = s.result := rfl
@[simp] theorem State.request_errIllegal (s : State) : (s.request).errIllegal = s.errIllegal := rfl
@[simp] theorem State.request_errLen (s : State) : (s.request).errLen = s.errLen := rfl
@[simp] theorem State.request_errBusy (s : State) : (s.request).errBusy = s.errBusy := rfl
@[simp] theorem State.request_errRng (s : State) : (s.request).errRng = s.errRng := rfl
@[simp] theorem State.request_ie (s : State) : (s.request).ie = s.ie := rfl
@[simp] theorem State.request_latch (s : State) : (s.request).latch = s.latch := rfl
@[simp] theorem State.request_setA (s : State) : (s.request).setA = s.setA := rfl
@[simp] theorem State.request_setB (s : State) : (s.request).setB = s.setB := rfl
@[simp] theorem State.request_iter (s : State) : (s.request).iter = s.iter := rfl
@[simp] theorem State.request_draw (s : State) : (s.request).draw = none := rfl
@[simp] theorem State.request_rngReq (s : State) : (s.request).rngReq = true := rfl
@[simp] theorem State.request_rstN (s : State) : (s.request).rstN = s.rstN := rfl
@[simp] theorem State.request_events (s : State) : (s.request).events = s.events := rfl
@[simp] theorem State.request_resp (s : State) : (s.request).resp = s.resp := rfl
@[simp] theorem State.request_free (s : State) : (s.request).free = s.free := rfl

@[simp] theorem storeBytes_cfg (s : State) (bs : List Byte) : (storeBytes bs s).cfg = s.cfg := rfl
@[simp] theorem storeBytes_fe (s : State) (bs : List Byte) : (storeBytes bs s).fe = s.fe := rfl
@[simp] theorem storeBytes_buf (s : State) (bs : List Byte) : (storeBytes bs s).buf = Memory.writeBytes s.buf 0 bs := rfl
@[simp] theorem storeBytes_bufLen (s : State) (bs : List Byte) : (storeBytes bs s).bufLen = BitVec.ofNat 16 s.cfg.nb := rfl
@[simp] theorem storeBytes_int (s : State) (bs : List Byte) : (storeBytes bs s).int = s.int := rfl
@[simp] theorem storeBytes_done (s : State) (bs : List Byte) : (storeBytes bs s).done = s.done := rfl
@[simp] theorem storeBytes_valid (s : State) (bs : List Byte) : (storeBytes bs s).valid = s.valid := rfl
@[simp] theorem storeBytes_result (s : State) (bs : List Byte) : (storeBytes bs s).result = s.result := rfl
@[simp] theorem storeBytes_errIllegal (s : State) (bs : List Byte) : (storeBytes bs s).errIllegal = s.errIllegal := rfl
@[simp] theorem storeBytes_errLen (s : State) (bs : List Byte) : (storeBytes bs s).errLen = s.errLen := rfl
@[simp] theorem storeBytes_errBusy (s : State) (bs : List Byte) : (storeBytes bs s).errBusy = s.errBusy := rfl
@[simp] theorem storeBytes_errRng (s : State) (bs : List Byte) : (storeBytes bs s).errRng = s.errRng := rfl
@[simp] theorem storeBytes_ie (s : State) (bs : List Byte) : (storeBytes bs s).ie = s.ie := rfl
@[simp] theorem storeBytes_latch (s : State) (bs : List Byte) : (storeBytes bs s).latch = s.latch := rfl
@[simp] theorem storeBytes_setA (s : State) (bs : List Byte) : (storeBytes bs s).setA = s.setA := rfl
@[simp] theorem storeBytes_setB (s : State) (bs : List Byte) : (storeBytes bs s).setB = s.setB := rfl
@[simp] theorem storeBytes_iter (s : State) (bs : List Byte) : (storeBytes bs s).iter = s.iter := rfl
@[simp] theorem storeBytes_draw (s : State) (bs : List Byte) : (storeBytes bs s).draw = s.draw := rfl
@[simp] theorem storeBytes_rngReq (s : State) (bs : List Byte) : (storeBytes bs s).rngReq = s.rngReq := rfl
@[simp] theorem storeBytes_rstN (s : State) (bs : List Byte) : (storeBytes bs s).rstN = s.rstN := rfl
@[simp] theorem storeBytes_events (s : State) (bs : List Byte) : (storeBytes bs s).events = s.events := rfl
@[simp] theorem storeBytes_resp (s : State) (bs : List Byte) : (storeBytes bs s).resp = s.resp := rfl
@[simp] theorem storeBytes_free (s : State) (bs : List Byte) : (storeBytes bs s).free = s.free := rfl

@[simp] theorem State.writeIntWord_cfg (s : State) (j : Nat) (w : Word) : (s.writeIntWord j w).cfg = s.cfg := rfl
@[simp] theorem State.writeIntWord_fe (s : State) (j : Nat) (w : Word) : (s.writeIntWord j w).fe = s.fe := rfl
@[simp] theorem State.writeIntWord_buf (s : State) (j : Nat) (w : Word) : (s.writeIntWord j w).buf = s.buf := rfl
@[simp] theorem State.writeIntWord_bufLen (s : State) (j : Nat) (w : Word) : (s.writeIntWord j w).bufLen = s.bufLen := rfl
@[simp] theorem State.writeIntWord_int (s : State) (j : Nat) (w : Word) : (s.writeIntWord j w).int = replaceWord s.int j w s.cfg.intBits := rfl
@[simp] theorem State.writeIntWord_done (s : State) (j : Nat) (w : Word) : (s.writeIntWord j w).done = s.done := rfl
@[simp] theorem State.writeIntWord_valid (s : State) (j : Nat) (w : Word) : (s.writeIntWord j w).valid = s.valid := rfl
@[simp] theorem State.writeIntWord_result (s : State) (j : Nat) (w : Word) : (s.writeIntWord j w).result = s.result := rfl
@[simp] theorem State.writeIntWord_errIllegal (s : State) (j : Nat) (w : Word) : (s.writeIntWord j w).errIllegal = s.errIllegal := rfl
@[simp] theorem State.writeIntWord_errLen (s : State) (j : Nat) (w : Word) : (s.writeIntWord j w).errLen = s.errLen := rfl
@[simp] theorem State.writeIntWord_errBusy (s : State) (j : Nat) (w : Word) : (s.writeIntWord j w).errBusy = s.errBusy := rfl
@[simp] theorem State.writeIntWord_errRng (s : State) (j : Nat) (w : Word) : (s.writeIntWord j w).errRng = s.errRng := rfl
@[simp] theorem State.writeIntWord_ie (s : State) (j : Nat) (w : Word) : (s.writeIntWord j w).ie = s.ie := rfl
@[simp] theorem State.writeIntWord_latch (s : State) (j : Nat) (w : Word) : (s.writeIntWord j w).latch = s.latch := rfl
@[simp] theorem State.writeIntWord_setA (s : State) (j : Nat) (w : Word) : (s.writeIntWord j w).setA = s.setA := rfl
@[simp] theorem State.writeIntWord_setB (s : State) (j : Nat) (w : Word) : (s.writeIntWord j w).setB = s.setB := rfl
@[simp] theorem State.writeIntWord_iter (s : State) (j : Nat) (w : Word) : (s.writeIntWord j w).iter = s.iter := rfl
@[simp] theorem State.writeIntWord_draw (s : State) (j : Nat) (w : Word) : (s.writeIntWord j w).draw = s.draw := rfl
@[simp] theorem State.writeIntWord_rngReq (s : State) (j : Nat) (w : Word) : (s.writeIntWord j w).rngReq = s.rngReq := rfl
@[simp] theorem State.writeIntWord_rstN (s : State) (j : Nat) (w : Word) : (s.writeIntWord j w).rstN = s.rstN := rfl
@[simp] theorem State.writeIntWord_events (s : State) (j : Nat) (w : Word) : (s.writeIntWord j w).events = s.events := rfl
@[simp] theorem State.writeIntWord_resp (s : State) (j : Nat) (w : Word) : (s.writeIntWord j w).resp = s.resp := rfl
@[simp] theorem State.writeIntWord_free (s : State) (j : Nat) (w : Word) : (s.writeIntWord j w).free = s.free := rfl

@[simp] theorem State.writeStatus_cfg (s : State) (w : Word) : (s.writeStatus w).cfg = s.cfg := rfl
@[simp] theorem State.writeStatus_fe (s : State) (w : Word) : (s.writeStatus w).fe = s.fe := rfl
@[simp] theorem State.writeStatus_buf (s : State) (w : Word) : (s.writeStatus w).buf = s.buf := rfl
@[simp] theorem State.writeStatus_bufLen (s : State) (w : Word) : (s.writeStatus w).bufLen = s.bufLen := rfl
@[simp] theorem State.writeStatus_int (s : State) (w : Word) : (s.writeStatus w).int = s.int := rfl
@[simp] theorem State.writeStatus_done (s : State) (w : Word) : (s.writeStatus w).done = w1c s.done (w.getLsbD 1) := rfl
@[simp] theorem State.writeStatus_valid (s : State) (w : Word) : (s.writeStatus w).valid = s.valid := rfl
@[simp] theorem State.writeStatus_result (s : State) (w : Word) : (s.writeStatus w).result = s.result := rfl
@[simp] theorem State.writeStatus_errIllegal (s : State) (w : Word) : (s.writeStatus w).errIllegal = w1c s.errIllegal (w.getLsbD 8) := rfl
@[simp] theorem State.writeStatus_errLen (s : State) (w : Word) : (s.writeStatus w).errLen = w1c s.errLen (w.getLsbD 9) := rfl
@[simp] theorem State.writeStatus_errBusy (s : State) (w : Word) : (s.writeStatus w).errBusy = w1c s.errBusy (w.getLsbD 10) := rfl
@[simp] theorem State.writeStatus_errRng (s : State) (w : Word) : (s.writeStatus w).errRng = w1c s.errRng (w.getLsbD 11) := rfl
@[simp] theorem State.writeStatus_ie (s : State) (w : Word) : (s.writeStatus w).ie = s.ie := rfl
@[simp] theorem State.writeStatus_latch (s : State) (w : Word) : (s.writeStatus w).latch = s.latch := rfl
@[simp] theorem State.writeStatus_setA (s : State) (w : Word) : (s.writeStatus w).setA = s.setA := rfl
@[simp] theorem State.writeStatus_setB (s : State) (w : Word) : (s.writeStatus w).setB = s.setB := rfl
@[simp] theorem State.writeStatus_iter (s : State) (w : Word) : (s.writeStatus w).iter = s.iter := rfl
@[simp] theorem State.writeStatus_draw (s : State) (w : Word) : (s.writeStatus w).draw = s.draw := rfl
@[simp] theorem State.writeStatus_rngReq (s : State) (w : Word) : (s.writeStatus w).rngReq = s.rngReq := rfl
@[simp] theorem State.writeStatus_rstN (s : State) (w : Word) : (s.writeStatus w).rstN = s.rstN := rfl
@[simp] theorem State.writeStatus_events (s : State) (w : Word) : (s.writeStatus w).events = s.events := rfl
@[simp] theorem State.writeStatus_resp (s : State) (w : Word) : (s.writeStatus w).resp = s.resp := rfl
@[simp] theorem State.writeStatus_free (s : State) (w : Word) : (s.writeStatus w).free = s.free := rfl

@[simp] theorem State.blockReset_cfg (s : State) : (s.blockReset).cfg = s.cfg := rfl
@[simp] theorem State.blockReset_fe (s : State) : (s.blockReset).fe = Vector.replicate 16 0 := rfl
@[simp] theorem State.blockReset_buf (s : State) : (s.blockReset).buf = [] := rfl
@[simp] theorem State.blockReset_bufLen (s : State) : (s.blockReset).bufLen = 0 := rfl
@[simp] theorem State.blockReset_int (s : State) : (s.blockReset).int = 0 := rfl
@[simp] theorem State.blockReset_done (s : State) : (s.blockReset).done = false := rfl
@[simp] theorem State.blockReset_valid (s : State) : (s.blockReset).valid = false := rfl
@[simp] theorem State.blockReset_result (s : State) : (s.blockReset).result = false := rfl
@[simp] theorem State.blockReset_errIllegal (s : State) : (s.blockReset).errIllegal = false := rfl
@[simp] theorem State.blockReset_errLen (s : State) : (s.blockReset).errLen = false := rfl
@[simp] theorem State.blockReset_errBusy (s : State) : (s.blockReset).errBusy = false := rfl
@[simp] theorem State.blockReset_errRng (s : State) : (s.blockReset).errRng = false := rfl
@[simp] theorem State.blockReset_ie (s : State) : (s.blockReset).ie = false := rfl
@[simp] theorem State.blockReset_latch (s : State) : (s.blockReset).latch = none := rfl
@[simp] theorem State.blockReset_setA (s : State) : (s.blockReset).setA = DivState.zero := rfl
@[simp] theorem State.blockReset_setB (s : State) : (s.blockReset).setB = DivState.zero := rfl
@[simp] theorem State.blockReset_iter (s : State) : (s.blockReset).iter = 0 := rfl
@[simp] theorem State.blockReset_draw (s : State) : (s.blockReset).draw = none := rfl
@[simp] theorem State.blockReset_rngReq (s : State) : (s.blockReset).rngReq = false := rfl
@[simp] theorem State.blockReset_rstN (s : State) : (s.blockReset).rstN = s.rstN := rfl
@[simp] theorem State.blockReset_events (s : State) : (s.blockReset).events = s.events := rfl
@[simp] theorem State.blockReset_resp (s : State) : (s.blockReset).resp = s.resp := rfl
@[simp] theorem State.blockReset_free (s : State) : (s.blockReset).free = s.free := rfl

@[simp] theorem State.raise_cfg (s : State) (e : ErrCode) : (s.raise e).cfg = s.cfg := by
  cases e <;> rfl
@[simp] theorem State.raise_fe (s : State) (e : ErrCode) : (s.raise e).fe = s.fe := by
  cases e <;> rfl
@[simp] theorem State.raise_buf (s : State) (e : ErrCode) : (s.raise e).buf = s.buf := by
  cases e <;> rfl
@[simp] theorem State.raise_bufLen (s : State) (e : ErrCode) : (s.raise e).bufLen = s.bufLen := by
  cases e <;> rfl
@[simp] theorem State.raise_int (s : State) (e : ErrCode) : (s.raise e).int = s.int := by
  cases e <;> rfl
@[simp] theorem State.raise_done (s : State) (e : ErrCode) : (s.raise e).done = s.done := by
  cases e <;> rfl
@[simp] theorem State.raise_valid (s : State) (e : ErrCode) : (s.raise e).valid = s.valid := by
  cases e <;> rfl
@[simp] theorem State.raise_result (s : State) (e : ErrCode) : (s.raise e).result = s.result := by
  cases e <;> rfl
@[simp] theorem State.raise_errIllegal (s : State) (e : ErrCode) : (s.raise e).errIllegal = (s.errIllegal || decide (e = .illegal)) := by
  cases e <;> simp [State.raise]
@[simp] theorem State.raise_errLen (s : State) (e : ErrCode) : (s.raise e).errLen = (s.errLen || decide (e = .len)) := by
  cases e <;> simp [State.raise]
@[simp] theorem State.raise_errBusy (s : State) (e : ErrCode) : (s.raise e).errBusy = (s.errBusy || decide (e = .busy)) := by
  cases e <;> simp [State.raise]
@[simp] theorem State.raise_errRng (s : State) (e : ErrCode) : (s.raise e).errRng = (s.errRng || decide (e = .rng)) := by
  cases e <;> simp [State.raise]
@[simp] theorem State.raise_ie (s : State) (e : ErrCode) : (s.raise e).ie = s.ie := by
  cases e <;> rfl
@[simp] theorem State.raise_latch (s : State) (e : ErrCode) : (s.raise e).latch = s.latch := by
  cases e <;> rfl
@[simp] theorem State.raise_setA (s : State) (e : ErrCode) : (s.raise e).setA = s.setA := by
  cases e <;> rfl
@[simp] theorem State.raise_setB (s : State) (e : ErrCode) : (s.raise e).setB = s.setB := by
  cases e <;> rfl
@[simp] theorem State.raise_iter (s : State) (e : ErrCode) : (s.raise e).iter = s.iter := by
  cases e <;> rfl
@[simp] theorem State.raise_draw (s : State) (e : ErrCode) : (s.raise e).draw = s.draw := by
  cases e <;> rfl
@[simp] theorem State.raise_rngReq (s : State) (e : ErrCode) : (s.raise e).rngReq = s.rngReq := by
  cases e <;> rfl
@[simp] theorem State.raise_rstN (s : State) (e : ErrCode) : (s.raise e).rstN = s.rstN := by
  cases e <;> rfl
@[simp] theorem State.raise_events (s : State) (e : ErrCode) : (s.raise e).events = s.events := by
  cases e <;> rfl
@[simp] theorem State.raise_resp (s : State) (e : ErrCode) : (s.raise e).resp = s.resp := by
  cases e <;> rfl
@[simp] theorem State.raise_free (s : State) (e : ErrCode) : (s.raise e).free = s.free := by
  cases e <;> rfl

@[simp] theorem loadInt_cfg (rd : FReg) (x : Nat) (s : State) : (loadInt rd x s).cfg = s.cfg := rfl
@[simp] theorem loadInt_buf (rd : FReg) (x : Nat) (s : State) : (loadInt rd x s).buf = s.buf := rfl
@[simp] theorem loadInt_bufLen (rd : FReg) (x : Nat) (s : State) : (loadInt rd x s).bufLen = s.bufLen := rfl
@[simp] theorem loadInt_int (rd : FReg) (x : Nat) (s : State) : (loadInt rd x s).int = s.int := rfl
@[simp] theorem loadInt_done (rd : FReg) (x : Nat) (s : State) : (loadInt rd x s).done = s.done := rfl
@[simp] theorem loadInt_result (rd : FReg) (x : Nat) (s : State) : (loadInt rd x s).result = s.result := rfl
@[simp] theorem loadInt_errIllegal (rd : FReg) (x : Nat) (s : State) : (loadInt rd x s).errIllegal = s.errIllegal := rfl
@[simp] theorem loadInt_errLen (rd : FReg) (x : Nat) (s : State) : (loadInt rd x s).errLen = s.errLen := rfl
@[simp] theorem loadInt_errBusy (rd : FReg) (x : Nat) (s : State) : (loadInt rd x s).errBusy = s.errBusy := rfl
@[simp] theorem loadInt_errRng (rd : FReg) (x : Nat) (s : State) : (loadInt rd x s).errRng = s.errRng := rfl
@[simp] theorem loadInt_ie (rd : FReg) (x : Nat) (s : State) : (loadInt rd x s).ie = s.ie := rfl
@[simp] theorem loadInt_latch (rd : FReg) (x : Nat) (s : State) : (loadInt rd x s).latch = s.latch := rfl
@[simp] theorem loadInt_setA (rd : FReg) (x : Nat) (s : State) : (loadInt rd x s).setA = s.setA := rfl
@[simp] theorem loadInt_setB (rd : FReg) (x : Nat) (s : State) : (loadInt rd x s).setB = s.setB := rfl
@[simp] theorem loadInt_iter (rd : FReg) (x : Nat) (s : State) : (loadInt rd x s).iter = s.iter := rfl
@[simp] theorem loadInt_draw (rd : FReg) (x : Nat) (s : State) : (loadInt rd x s).draw = s.draw := rfl
@[simp] theorem loadInt_rngReq (rd : FReg) (x : Nat) (s : State) : (loadInt rd x s).rngReq = s.rngReq := rfl
@[simp] theorem loadInt_rstN (rd : FReg) (x : Nat) (s : State) : (loadInt rd x s).rstN = s.rstN := rfl
@[simp] theorem loadInt_events (rd : FReg) (x : Nat) (s : State) : (loadInt rd x s).events = s.events := rfl
@[simp] theorem loadInt_resp (rd : FReg) (x : Nat) (s : State) : (loadInt rd x s).resp = s.resp := rfl
@[simp] theorem loadInt_free (rd : FReg) (x : Nat) (s : State) : (loadInt rd x s).free = s.free := rfl
@[simp] theorem loadInt_fe (rd : FReg) (x : Nat) (s : State) : (loadInt rd x s).fe =
    s.fe.set rd.val (ctSelect (flagInRange s.cfg x) 0 (mont s.cfg (x % s.cfg.P))) rd.isLt := rfl
@[simp] theorem loadInt_valid (rd : FReg) (x : Nat) (s : State) : (loadInt rd x s).valid = flagInRange s.cfg x := rfl

@[simp] theorem iterate_cfg (s : State) : (iterate s).cfg = s.cfg := by
  unfold iterate; split <;> rfl
@[simp] theorem iterate_fe (s : State) : (iterate s).fe = s.fe := by
  unfold iterate; split <;> rfl
@[simp] theorem iterate_buf (s : State) : (iterate s).buf = s.buf := by
  unfold iterate; split <;> rfl
@[simp] theorem iterate_bufLen (s : State) : (iterate s).bufLen = s.bufLen := by
  unfold iterate; split <;> rfl
@[simp] theorem iterate_int (s : State) : (iterate s).int = s.int := by
  unfold iterate; split <;> rfl
@[simp] theorem iterate_done (s : State) : (iterate s).done = s.done := by
  unfold iterate; split <;> rfl
@[simp] theorem iterate_valid (s : State) : (iterate s).valid = s.valid := by
  unfold iterate; split <;> rfl
@[simp] theorem iterate_result (s : State) : (iterate s).result = s.result := by
  unfold iterate; split <;> rfl
@[simp] theorem iterate_errIllegal (s : State) : (iterate s).errIllegal = s.errIllegal := by
  unfold iterate; split <;> rfl
@[simp] theorem iterate_errLen (s : State) : (iterate s).errLen = s.errLen := by
  unfold iterate; split <;> rfl
@[simp] theorem iterate_errBusy (s : State) : (iterate s).errBusy = s.errBusy := by
  unfold iterate; split <;> rfl
@[simp] theorem iterate_errRng (s : State) : (iterate s).errRng = s.errRng := by
  unfold iterate; split <;> rfl
@[simp] theorem iterate_ie (s : State) : (iterate s).ie = s.ie := by
  unfold iterate; split <;> rfl
@[simp] theorem iterate_latch (s : State) : (iterate s).latch = s.latch := by
  unfold iterate; split <;> rfl
@[simp] theorem iterate_draw (s : State) : (iterate s).draw = s.draw := by
  unfold iterate; split <;> rfl
@[simp] theorem iterate_rngReq (s : State) : (iterate s).rngReq = s.rngReq := by
  unfold iterate; split <;> rfl
@[simp] theorem iterate_rstN (s : State) : (iterate s).rstN = s.rstN := by
  unfold iterate; split <;> rfl
@[simp] theorem iterate_events (s : State) : (iterate s).events = s.events := by
  unfold iterate; split <;> rfl
@[simp] theorem iterate_resp (s : State) : (iterate s).resp = s.resp := by
  unfold iterate; split <;> rfl
@[simp] theorem iterate_free (s : State) : (iterate s).free = s.free := by
  unfold iterate; split <;> rfl
@[simp] theorem iterate_iter (s : State) : (iterate s).iter = s.iter + 1 := by
  unfold iterate; split <;> rfl

/-! ## The register file -/

@[simp] theorem feAt_setFE_same (s : State) (i : FReg) (v : Nat) : (s.setFE i v).feAt i = v := by
  simp [State.feAt, Vector.get_eq_getElem]

theorem feAt_setFE_other (s : State) {i j : FReg} (v : Nat) (h : j ≠ i) : (s.setFE i v).feAt j = s.feAt j := by
  have : i.val ≠ j.val := fun e => h (Fin.ext e.symm)
  simp [State.feAt, Vector.get_eq_getElem, this]

theorem feAt_setFE (s : State) (i j : FReg) (v : Nat) : (s.setFE i v).feAt j = if j = i then v else s.feAt j := by
  split
  · next h => rw [h, feAt_setFE_same]
  · next h => exact feAt_setFE_other s v h

@[simp] theorem feAt_resetOf (c : Config) (i : FReg) : (State.resetOf c).feAt i = 0 := by
  simp [State.feAt, State.resetOf, Vector.get_eq_getElem]

/-! The updates that leave the register file alone. -/

@[simp] theorem feAt_accept (s : State) (i : Instr) (o : Operands) (r : FReg) : (s.accept i o).feAt r = s.feAt r := rfl
@[simp] theorem feAt_complete (s : State) (r : FReg) : s.complete.feAt r = s.feAt r := rfl
@[simp] theorem feAt_setValid (s : State) (b : Bool) (r : FReg) : (s.setValid b).feAt r = s.feAt r := rfl
@[simp] theorem feAt_setResult (s : State) (b : Bool) (r : FReg) : (s.setResult b).feAt r = s.feAt r := rfl
@[simp] theorem feAt_request (s : State) (r : FReg) : s.request.feAt r = s.feAt r := rfl
@[simp] theorem feAt_raise (s : State) (e : ErrCode) (r : FReg) : (s.raise e).feAt r = s.feAt r := by cases e <;> rfl
@[simp] theorem feAt_lengthError (s : State) (r : FReg) : s.lengthError.feAt r = s.feAt r := rfl
@[simp] theorem feAt_illegalCommand (s : State) (r : FReg) : s.illegalCommand.feAt r = s.feAt r := rfl
@[simp] theorem feAt_storeBytes (s : State) (bs : List Byte) (r : FReg) : (storeBytes bs s).feAt r = s.feAt r := rfl
@[simp] theorem feAt_startInversion (s : State) (i : Instr) (rs1 r : FReg) :
    (startInversion i rs1 s).feAt r = s.feAt r := rfl
@[simp] theorem feAt_iterate (s : State) (r : FReg) : (iterate s).feAt r = s.feAt r := by
  unfold iterate; split <;> rfl

/-- The registers decide what `feAt` reads. -/
theorem feAt_congr {s t : State} (h : t.fe = s.fe) (i : FReg) : t.feAt i = s.feAt i := by
  simp [State.feAt, h]

@[simp] theorem busy_none {s : State} (h : s.latch = none) : s.busy = false := by simp [State.busy, h]

@[simp] theorem busy_some {s : State} {l : Latch} (h : s.latch = some l) : s.busy = true := by simp [State.busy, h]

end Sys2Proof.Machine
end

