-- ==== Sys2Proof/Laws/Lifecycle.lean ====
section
/-! SUPPORT. What the core can do with a command: it starts it, turns it, or drops it. -/

namespace Sys2Proof.Machine

/-- What an idle core does with a command: accept it, or report a length error. -/
def startOf : Instr → State → State
  | .fromBe rd, s => if s.bufLen.toNat = s.cfg.nb then s.accept (.fromBe rd) (srcBuf s) else s.lengthError
  | .fromLe rd, s => if s.bufLen.toNat = s.cfg.nb then s.accept (.fromLe rd) (srcBuf s) else s.lengthError
  | .toBe rs1, s => s.accept (.toBe rs1) (srcOne rs1 s)
  | .toLe rs1, s => s.accept (.toLe rs1) (srcOne rs1 s)
  | .fromUint rd, s => s.accept (.fromUint rd) (srcInt s)
  | .isZero rs1, s => s.accept (.isZero rs1) (srcOne rs1 s)
  | .eq rs1 rs2, s => s.accept (.eq rs1 rs2) (srcTwo rs1 rs2 s)
  | .isOdd rs1, s => s.accept (.isOdd rs1) (srcOne rs1 s)
  | .gt rs1 rs2, s => s.accept (.gt rs1 rs2) (srcTwo rs1 rs2 s)
  | .lt rs1 rs2, s => s.accept (.lt rs1 rs2) (srcTwo rs1 rs2 s)
  | .dbl rd rs1, s => s.accept (.dbl rd rs1) (srcOne rs1 s)
  | .sqr rd rs1, s => s.accept (.sqr rd rs1) (srcOne rs1 s)
  | .seli rd rs1 rs2 ci, s => s.accept (.seli rd rs1 rs2 ci) (srcTwo rs1 rs2 s)
  | .selr rd rs1 rs2, s => s.accept (.selr rd rs1 rs2) (srcTwoResult rs1 rs2 s)
  | .add rd rs1 rs2, s => s.accept (.add rd rs1 rs2) (srcTwo rs1 rs2 s)
  | .sub rd rs1 rs2, s => s.accept (.sub rd rs1 rs2) (srcTwo rs1 rs2 s)
  | .mul rd rs1 rs2, s => s.accept (.mul rd rs1 rs2) (srcTwo rs1 rs2 s)
  | .neg rd rs1, s => s.accept (.neg rd rs1) (srcOne rs1 s)
  | .inv rd rs1, s => startInversion (.inv rd rs1) rs1 s
  | .rand rd, s => (s.accept (.rand rd) Operands.empty).request

/-- What one turn does with the command in flight, given the sources read at accept. -/
def turnOf : Instr → Operands → State → State
  | .fromBe rd, o, s => (loadInt rd (beInt (Memory.readBytes o.buf s.cfg.nb)) s).complete
  | .fromLe rd, o, s => (loadInt rd (leInt (Memory.readBytes o.buf s.cfg.nb)) s).complete
  | .toBe _, o, s => (storeBytes (beBytes s.cfg.nb (canon s.cfg o.a)) s).complete
  | .toLe _, o, s => (storeBytes (leBytes s.cfg.nb (canon s.cfg o.a)) s).complete
  | .fromUint rd, o, s => (loadInt rd o.int s).complete
  | .isZero _, o, s => (s.setResult (flagIsZero o.a)).complete
  | .eq _ _, o, s => (s.setResult (flagEq o.a o.b)).complete
  | .isOdd _, o, s => (s.setResult (flagIsOdd s.cfg o.a)).complete
  | .gt _ _, o, s => (s.setResult (flagGt s.cfg o.a o.b)).complete
  | .lt _ _, o, s => (s.setResult (flagLt s.cfg o.a o.b)).complete
  | .dbl rd _, o, s => (s.setFE rd (engAdd s.cfg o.a o.a)).complete
  | .sqr rd _, o, s => (s.setFE rd (engSquare s.cfg o.a)).complete
  | .seli rd _ _ ci, o, s => (s.setFE rd (ctSelect ci o.a o.b)).complete
  | .selr rd _ _, o, s => (s.setFE rd (ctSelect o.result o.a o.b)).complete
  | .add rd _ _, o, s => (s.setFE rd (engAdd s.cfg o.a o.b)).complete
  | .sub rd _ _, o, s => (s.setFE rd (engSub s.cfg o.a o.b)).complete
  | .mul rd _ _, o, s => (s.setFE rd (engMul s.cfg o.a o.b)).complete
  | .neg rd _, o, s => (s.setFE rd (engNeg s.cfg o.a)).complete
  | .inv rd _, o, s => turnInversion rd o s
  | .rand rd, _, s => turnSampling rd s

/-- Every command goes through the one lifecycle (R112). -/
theorem exec_eq_lifecycle (i : Instr) (s : State) : exec i s = lifecycle i (startOf i) (turnOf i) s := by
  cases i <;> rfl

/-- Idle, a command starts. -/
theorem exec_idle (i : Instr) {s : State} (h : s.latch = none) : exec i s = .next (startOf i s) := by
  rw [exec_eq_lifecycle]; simp [lifecycle, h]

/-- In flight, a command takes a turn. -/
theorem exec_turn (i : Instr) {s : State} {o : Operands} (h : s.latch = some { instr := i, src := o }) :
    exec i s = .next (turnOf i o s) := by
  rw [exec_eq_lifecycle]; simp [lifecycle, h]

/-- A command met by another one in flight is dropped (R110). -/
theorem exec_other (i : Instr) {s : State} {l : Latch} (h : s.latch = some l) (hi : l.instr ≠ i) :
    exec i s = .next (s.raise .busy) := by
  rw [exec_eq_lifecycle]; simp [lifecycle, h, hi]

/-- The accept and the first turn of a command, in one. -/
theorem runCommand_two (i : Instr) {s : State} {o : Operands} (h : s.latch = none)
    (ha : (startOf i s).latch = some { instr := i, src := o }) :
    runCommand i 2 s = .next (turnOf i o (startOf i s)) := by
  simp only [runCommand, exec_idle i h, exec_turn i ha]

/-- Everything `exec` can do. -/
theorem exec_cases {i : Instr} {s t : State} (h : exec i s = .next t) :
    (s.latch = none ∧ t = startOf i s) ∨
    (∃ o, s.latch = some { instr := i, src := o } ∧ t = turnOf i o s) ∨
    (∃ l, s.latch = some l ∧ l.instr ≠ i ∧ t = s.raise .busy) := by
  cases hl : s.latch with
  | none => rw [exec_idle i hl] at h; cases h; exact .inl ⟨rfl, rfl⟩
  | some l =>
    obtain ⟨j, o⟩ := l
    by_cases hi : j = i
    · subst hi; rw [exec_turn j hl] at h; cases h; exact .inr (.inl ⟨o, rfl, rfl⟩)
    · rw [exec_other i hl hi] at h; cases h; exact .inr (.inr ⟨_, rfl, hi, rfl⟩)

end Sys2Proof.Machine
end

