-- ==== Sys2Proof/Laws/Step.lean ====
section
/-! SUPPORT. Everything a step can do, and what a step does with each kind of access. -/

namespace Sys2Proof.Machine

/-- Everything a step can do to the state `u` that has the performed event `e` taken off its inputs (`none`: there was
no event, and the core had its turn). -/
inductive StepCase (e : Option Event) (u : State) : State → Prop
  /-- A read, a bus error, an ignored access or answer, or a turn of an idle core: the block is unchanged. -/
  | quiet (resp : Option BusResp) (free : Nat) : StepCase e u { u with resp := resp, free := free }
  /-- A write that is dropped because a command is in flight (R110). -/
  | dropped (hl : u.latch ≠ none) : StepCase e u { u with resp := some .ack, errBusy := true }
  /-- An illegal command word (R108). -/
  | illegal (hl : u.latch = none) : StepCase e u { u with resp := some .ack, errIllegal := true, done := true }
  /-- A legal command word meets an idle block. -/
  | start (i : Instr) (hl : u.latch = none) (hr : u.rstN = true) : StepCase e u (startOf i { u with resp := some .ack })
  /-- The command in flight takes a turn. -/
  | turn (i : Instr) (o : Operands) (hl : u.latch = some { instr := i, src := o }) (hr : u.rstN = true) :
      StepCase e u (turnOf i o u)
  /-- A write of `STATUS` (R24). -/
  | status (v : Word) (he : e = some (u.writeTo 0x014 v)) :
      StepCase e u (({ u with resp := some .ack } : State).writeStatus v)
  /-- A write of `CTRL` with `SRST = 0` (R122). -/
  | enable (v : Word) (he : e = some (u.writeTo 0x010 v)) :
      StepCase e u { u with resp := some .ack, ie := v.getLsbD 1 }
  /-- A soft reset (R122). -/
  | softReset (v : Word) (he : e = some (u.writeTo 0x010 v)) (hv : v.getLsbD 0 = true) :
      StepCase e u ({ u with resp := some .ack } : State).blockReset
  /-- A write of `BUF_LEN` on an idle block (R20). -/
  | bufLen (n : BitVec 16) (hl : u.latch = none) : StepCase e u { u with resp := some .ack, bufLen := n }
  /-- A write of a word of the buffer window on an idle block (R37). -/
  | bufWord (k : Nat) (v : Word) (hl : u.latch = none) :
      StepCase e u { u with resp := some .ack, buf := (u.writeBufWord k v).buf }
  /-- A write of a word of the integer window on an idle block (R39). -/
  | intWord (j : Nat) (v : Word) (hl : u.latch = none) :
      StepCase e u { u with resp := some .ack, int := replaceWord u.int j v u.cfg.intBits }
  /-- The randomness source answers the outstanding request. -/
  | answer (a : RngAnswer) (hq : u.rngReq = true) (hr : u.rstN = true) :
      StepCase e u { u with draw := some a, rngReq := false }
  /-- The reset pin is driven low: the block is reset and held. -/
  | hold (he : e = some (.rstN false)) : StepCase e u { u.blockReset with rstN := false }
  /-- The reset pin is driven high. -/
  | release : StepCase e u { u with rstN := true }

/-- A lane write changes `BUF` only, at one index and only where the lane holds a byte. -/
theorem writeLane_eq (s : State) (j : Nat) (b : Byte) :
    s.writeLane j b = { s with buf := if j < s.cfg.nb then Memory.write s.buf j b else s.buf } := by
  unfold State.writeLane; split <;> rfl

/-- A write of `BUFW[k]` changes `BUF` only. -/
theorem writeBufWord_eq (s : State) (k : Nat) (v : Word) : s.writeBufWord k v = { s with buf := (s.writeBufWord k v).buf } := by
  simp only [State.writeBufWord, writeLane_eq]

/-- A `CMD` write on an idle block that the decoder rejects. -/
theorem issue_illegal {s : State} {w : Word} (hl : s.latch = none) (hd : decode w = none) :
    s.issue w = .next s.illegalCommand := by
  simp [State.issue, State.busy, hl, hd]

/-- A `CMD` write of a legal word on an idle block. -/
theorem issue_legal {s : State} {w : Word} {i : Instr} (hl : s.latch = none) (hd : decode w = some i) :
    s.issue w = exec i s := by
  simp [State.issue, State.busy, hl, hd]

/-- A `CMD` write while a command is in flight (R110). -/
theorem issue_busy {s : State} (w : Word) (hl : s.latch ≠ none) : s.issue w = .next (s.raise .busy) := by
  obtain ⟨l, hl⟩ := Option.ne_none_iff_exists'.1 hl
  simp [State.issue, State.busy, hl]

/-! ## The register map -/

theorem busReg_reserved {off : Nat} (h1 : 0x020 ≤ off) (h2 : off < 0x100) : busReg off = .reserved := by
  unfold busReg
  split_ifs <;> first | rfl | omega

theorem busReg_bufw {k : Nat} (h : k < 192) : busReg (0x100 + 4 * k) = .bufw k := by
  unfold busReg
  split_ifs <;> first | omega | (congr 1; omega)

theorem busReg_intw {j : Nat} (h : j < 256) : busReg (0x400 + 4 * j) = .intw j := by
  unfold busReg
  split_ifs <;> first | omega | (congr 1; omega)

/-- The offsets below `0x010` are the identification registers. -/
theorem busReg_lt {off : Nat} (h4 : off % 4 = 0) (h : off < 0x010) :
    busReg off = .id ∨ busReg off = .param0 ∨ busReg off = .param1 ∨ busReg off = .param2 := by
  have : off = 0 ∨ off = 4 ∨ off = 8 ∨ off = 12 := by omega
  rcases this with rfl | rfl | rfl | rfl <;> simp [busReg]

/-- The offsets from `0x100` up are the words of the two data windows. -/
theorem busReg_window {off : Nat} (h4 : off % 4 = 0) (h1 : 0x100 ≤ off) (h2 : off < 0x800) :
    (∃ k, off = 0x100 + 4 * k ∧ k < 192 ∧ busReg off = .bufw k) ∨
    (∃ j, off = 0x400 + 4 * j ∧ j < 256 ∧ busReg off = .intw j) := by
  by_cases h : off < 0x400
  · obtain ⟨k, rfl⟩ : ∃ k, off = 0x100 + 4 * k := ⟨(off - 0x100) / 4, by omega⟩
    exact .inl ⟨k, rfl, by omega, busReg_bufw (by omega)⟩
  · obtain ⟨j, rfl⟩ : ∃ j, off = 0x400 + 4 * j := ⟨(off - 0x400) / 4, by omega⟩
    exact .inr ⟨j, rfl, by omega, busReg_intw (by omega)⟩

/-- Below offset `0x100` there is no word of a data window. -/
theorem busReg_not_window {off : Nat} (h : off < 0x100) : (busReg off).isWindow = false := by
  unfold busReg; split_ifs <;> first | rfl | omega

/-- In reset every register from offset `0x010` up reads 0 (R121). -/
theorem readInReset_zero (s : State) {off : Nat} (h : 0x010 ≤ off) : s.readInReset (busReg off) = 0 := by
  unfold busReg; split_ifs <;> first | rfl | omega

/-- The only offset that names `CTRL`. -/
theorem busReg_ctrl {off : Nat} (h : busReg off = .ctrl) : off = 0x010 := by
  unfold busReg at h; split_ifs at h; assumption

/-- The only offset that names `STATUS`. -/
theorem busReg_status {off : Nat} (h : busReg off = .status) : off = 0x014 := by
  unfold busReg at h; split_ifs at h; assumption

/-! ## Writes of one register -/

/-- Out of reset, a `CMD` write issues the word. -/
theorem writeAccess_cmd {s : State} (v : Word) (hr : s.rstN = true) :
    s.writeAccess .cmd v = ({ s with resp := some .ack } : State).issue v := by
  unfold State.writeAccess; rw [if_neg (by simp [hr])]

/-- Out of reset, a write of another register than `CMD` is acknowledged and done. -/
theorem writeAccess_reg {s : State} {r : BusReg} (v : Word) (hr : s.rstN = true) (h : r ≠ .cmd) :
    s.writeAccess r v = .next (({ s with resp := some .ack } : State).writeReg r v) := by
  unfold State.writeAccess
  rw [if_neg (by simp [hr])]
  cases r <;> first | rfl | exact absurd rfl h

/-- In reset, a write is acknowledged and does nothing (R121). -/
theorem writeAccess_reset {s : State} (r : BusReg) (v : Word) (hr : s.rstN = false) :
    s.writeAccess r v = .next { s with resp := some .ack } := by
  unfold State.writeAccess; rw [if_pos hr]

theorem busy_of_latch {s : State} (h : s.latch ≠ none) : s.busy = true := by
  obtain ⟨l, hl⟩ := Option.ne_none_iff_exists'.1 h; simp [State.busy, hl]

theorem not_busy_of_latch {s : State} (h : s.latch = none) : s.busy = false := by simp [State.busy, h]

/-- A write that is dropped because a command is in flight (R110). -/
theorem writeReg_busy {s : State} {r : BusReg} (v : Word) (hl : s.latch ≠ none)
    (h : r = .bufLen ∨ (∃ k, r = .bufw k) ∨ (∃ j, r = .intw j)) : s.writeReg r v = s.raise .busy := by
  rcases h with rfl | ⟨k, rfl⟩ | ⟨j, rfl⟩ <;> simp only [State.writeReg, busy_of_latch hl, if_true]

/-- The same at the bus: the write is acknowledged, and `ERR_BUSY` is set. -/
theorem writeAccess_busy {s : State} {r : BusReg} (v : Word) (hr : s.rstN = true) (hl : s.latch ≠ none)
    (h : r = .cmd ∨ r = .bufLen ∨ (∃ k, r = .bufw k) ∨ (∃ j, r = .intw j)) :
    s.writeAccess r v = .next { s with resp := some .ack, errBusy := true } := by
  rcases h with rfl | h
  · rw [writeAccess_cmd v hr, issue_busy (s := { s with resp := some .ack }) v hl]; rfl
  · rw [writeAccess_reg v hr (by rcases h with rfl | ⟨k, rfl⟩ | ⟨j, rfl⟩ <;> simp),
      writeReg_busy (s := { s with resp := some .ack }) v hl h]
    rfl

/-- A write of `CTRL` with `SRST = 0` writes `IE` only (R122). -/
theorem writeCtrl_ie {s : State} {v : Word} (h : v.getLsbD 0 = false) : s.writeCtrl v = { s with ie := v.getLsbD 1 } := by
  unfold State.writeCtrl; rw [h]; rfl

/-- A write of `CTRL` with `SRST = 1` resets the block (R122). -/
theorem writeCtrl_srst {s : State} {v : Word} (h : v.getLsbD 0 = true) : s.writeCtrl v = s.blockReset := by
  unfold State.writeCtrl; rw [h]; rfl

/-! ## Reads of one register -/

/-- Out of reset, a read of a register that is no data window, or of any register of an idle block, answers its word. -/
theorem readAccess_reg {s : State} {r : BusReg} (hr : s.rstN = true) (h : s.latch = none ∨ r.isWindow = false) :
    s.readAccess r = { s with resp := some (.data (s.readReg r)) } := by
  unfold State.readAccess
  rw [if_neg (by simp [hr]), if_neg]
  rcases h with h | h
  · simp [not_busy_of_latch h]
  · simp [h]

/-- A data window read while a command is in flight answers a free value (R127). -/
theorem readAccess_free {s : State} {r : BusReg} (hr : s.rstN = true) (hl : s.latch ≠ none) (h : r.isWindow = true) :
    s.readAccess r = { s with resp := some (.data (Config.busyRead s.free)), free := s.free + 1 } := by
  unfold State.readAccess
  rw [if_neg (by simp [hr]), if_pos (by simp [busy_of_latch hl, h])]

/-- In reset, a read answers 0 but for the identification registers (R121). -/
theorem readAccess_reset {s : State} (r : BusReg) (hr : s.rstN = false) :
    s.readAccess r = { s with resp := some (.data (s.readInReset r)) } := by
  unfold State.readAccess; rw [if_pos hr]

/-! ## What each event can do -/

theorem issue_cases {e : Option Event} {u t : State} {w : Word} (hr : u.rstN = true)
    (h : ({ u with resp := some .ack } : State).issue w = .next t) : StepCase e u t := by
  by_cases hl : u.latch = none
  · cases hd : decode w with
    | none => rw [issue_illegal (s := { u with resp := some .ack }) hl hd] at h; cases h; exact .illegal hl
    | some i =>
      rw [issue_legal (s := { u with resp := some .ack }) hl hd, exec_idle i (s := { u with resp := some .ack }) hl] at h
      cases h; exact .start i hl hr
  · rw [issue_busy (s := { u with resp := some .ack }) w hl] at h
    cases h
    exact .dropped hl

theorem writeAccess_cases {e : Option Event} {u t : State} {r : BusReg} {v : Word}
    (hs : r = .status → e = some (u.writeTo 0x014 v)) (hc : r = .ctrl → e = some (u.writeTo 0x010 v))
    (h : u.writeAccess r v = .next t) : StepCase e u t := by
  have quiet : StepCase e u { u with resp := some .ack } := .quiet (some .ack) u.free
  by_cases hr : u.rstN = true
  swap
  · rw [writeAccess_reset r v (by simpa using hr)] at h; cases h; exact quiet
  by_cases hcmd : r = .cmd
  · rw [hcmd, writeAccess_cmd v hr] at h; exact issue_cases hr h
  by_cases hb : u.latch ≠ none ∧ (r = .bufLen ∨ (∃ k, r = .bufw k) ∨ (∃ j, r = .intw j))
  · rw [writeAccess_busy v hr hb.1 (.inr hb.2)] at h; cases h; exact .dropped hb.1
  rw [writeAccess_reg v hr hcmd] at h
  cases h
  have idle : (r = .bufLen ∨ (∃ k, r = .bufw k) ∨ (∃ j, r = .intw j)) →
      u.latch = none ∧ ({ u with resp := some .ack } : State).busy = false := by
    intro hk
    have hl : u.latch = none := by by_contra hl; exact hb ⟨hl, hk⟩
    exact ⟨hl, not_busy_of_latch (s := { u with resp := some .ack }) hl⟩
  cases r with
  | cmd => exact absurd rfl hcmd
  | id | param0 | param1 | param2 | reserved => exact quiet
  | status => exact .status v (hs rfl)
  | ctrl =>
    cases hv : v.getLsbD 0 with
    | true => simp only [State.writeReg, writeCtrl_srst hv]; exact .softReset v (hc rfl) hv
    | false => simp only [State.writeReg, writeCtrl_ie hv]; exact .enable v (hc rfl)
  | bufLen =>
    obtain ⟨hl, hbf⟩ := idle (.inl rfl)
    simp only [State.writeReg, hbf]; exact .bufLen _ hl
  | bufw k =>
    obtain ⟨hl, hbf⟩ := idle (.inr (.inl ⟨k, rfl⟩))
    simp only [State.writeReg, hbf]
    have hw : ({ u with resp := some .ack } : State).writeBufWord k v =
        { u with resp := some .ack, buf := (u.writeBufWord k v).buf } := by
      simp only [State.writeBufWord, writeLane_eq]
    rw [if_neg (by simp), hw]; exact .bufWord k v hl
  | intw j =>
    obtain ⟨hl, hbf⟩ := idle (.inr (.inr ⟨j, rfl⟩))
    simp only [State.writeReg, hbf]; exact .intWord j v hl

/-- A read answers, and counts a free value if it used one. -/
theorem readAccess_quiet (u : State) (r : BusReg) :
    u.readAccess r = { u with resp := (u.readAccess r).resp, free := (u.readAccess r).free } := by
  unfold State.readAccess
  split
  · rfl
  split <;> rfl

theorem hostAccess_cases {u t : State} {a : HostAccess} (h : u.hostAccess a = .next t) :
    StepCase (some (.host a)) u t := by
  cases a with
  | read addr bytes =>
    simp only [State.hostAccess] at h
    split at h
    · cases h
    split at h
    · cases h; exact .quiet (some .busError) u.free
    · cases h; rw [readAccess_quiet]; exact .quiet _ _
  | write addr bytes v =>
    simp only [State.hostAccess] at h
    split at h
    · cases h
    next hw =>
    split at h
    · cases h; exact .quiet (some .busError) u.free
    next ha =>
    simp only [State.inWindow, State.aligned, Bool.and_eq_false_iff, decide_eq_false_iff_not, not_or, not_not] at hw ha
    refine writeAccess_cases ?_ ?_ h <;> intro hreg
    · have := busReg_status hreg
      rw [State.writeTo, ha.1, show addr = u.cfg.base + 0x014 by omega]
    · have := busReg_ctrl hreg
      rw [State.writeTo, ha.1, show addr = u.cfg.base + 0x010 by omega]

theorem coreTurn_cases {e : Option Event} {u t : State} (h : u.coreTurn = .next t) : StepCase e u t := by
  unfold State.coreTurn at h
  split at h
  · cases h; exact .quiet u.resp u.free
  next hr =>
  split at h
  · cases h; exact .quiet u.resp u.free
  · next l hl =>
    obtain ⟨i, o⟩ := l
    rw [exec_turn i hl] at h
    cases h; exact .turn i o hl (by simpa using hr)

theorem rngAnswer_cases {e : Option Event} {u t : State} {a : RngAnswer} (h : u.rngAnswer a = .next t) :
    StepCase e u t := by
  unfold State.rngAnswer at h
  split at h
  · cases h; exact .quiet u.resp u.free
  next hq =>
  simp only [Bool.or_eq_true, decide_eq_true_eq, not_or, Bool.not_eq_false] at hq
  cases a with
  | fail => cases h; exact .answer .fail hq.2 hq.1
  | bytes b =>
    simp only at h
    split at h
    · cases h; exact .answer (.bytes b) hq.2 hq.1
    · cases h

theorem perform_cases {u t : State} {e : Event} (h : u.perform e = .next t) : StepCase (some e) u t := by
  cases e with
  | host a => exact hostAccess_cases h
  | core => exact coreTurn_cases h
  | rng a => exact rngAnswer_cases h
  | rstN level =>
    cases h
    cases level
    · exact .hold rfl
    · exact .release

/-- A step that answers a next state has a configuration that passes the check, and is one of the cases above, on the
state with its next event taken off. -/
theorem step_cases {s t : State} (h : step s = .next t) :
    s.cfg.ok = true ∧ StepCase s.events.head? { s with events := s.events.tail } t := by
  unfold step at h
  split at h
  next hok =>
    refine ⟨hok, ?_⟩
    unfold State.advance at h
    split at h
    · next he =>
      have : ({ s with events := s.events.tail } : State) = s := by rw [he]; cases s; simp_all
      rw [this, he]; exact coreTurn_cases h
    · next e es he => simp only [he, List.tail_cons, List.head?_cons]; exact perform_cases h
  · cases h

/-! ## A step on a given event -/

/-- With a valid configuration, a step performs the event given. -/
theorem stepOn_eq (s : State) (e : Event) (h : s.cfg.ok = true) : s.stepOn e = s.perform e := by
  simp [State.stepOn, step, h, State.advance]

theorem inWindow_off (s : State) {off : Nat} (h : off < 0x800) : s.inWindow (s.cfg.base + off) = true := by
  simp [State.inWindow, windowSize]; omega

theorem aligned_off (s : State) {off : Nat} (h : off % 4 = 0) : s.aligned (s.cfg.base + off) 4 = true := by
  simp [State.aligned, h]

/-- A 32-bit aligned write in the window reaches the register the map names. -/
theorem stepOn_writeTo (s : State) {off : Nat} (v : Word) (hok : s.cfg.ok = true) (ho : off < 0x800) (ha : off % 4 = 0) :
    s.stepOn (s.writeTo off v) = s.writeAccess (busReg off) v := by
  rw [stepOn_eq _ _ hok]
  simp [State.perform, State.writeTo, State.hostAccess, inWindow_off s ho, aligned_off s ha]

/-- A 32-bit aligned read in the window reaches the register the map names. -/
theorem stepOn_readFrom (s : State) {off : Nat} (hok : s.cfg.ok = true) (ho : off < 0x800) (ha : off % 4 = 0) :
    s.stepOn (s.readFrom off) = .next (s.readAccess (busReg off)) := by
  rw [stepOn_eq _ _ hok]
  simp [State.perform, State.readFrom, State.hostAccess, inWindow_off s ho, aligned_off s ha]

end Sys2Proof.Machine
end

