-- ==== Sys2Proof/Laws/Bus.lean ====
section
/-! SUPPORT. The words of the register window, bit by bit and lane by lane, and what a write of a window word leaves. -/

namespace Sys2Proof.Machine

/-- The low part of two words put together. -/
theorem extractLsb'_append_low {a b : Nat} (x : BitVec a) (y : BitVec b) : (x ++ y).extractLsb' 0 b = y := by
  apply BitVec.eq_of_getLsbD_eq; intro k hk; simp [BitVec.getLsbD_append, hk]

/-- The high part of two words put together. -/
theorem extractLsb'_append_high {a b : Nat} (x : BitVec a) (y : BitVec b) : (x ++ y).extractLsb' b a = x := by
  apply BitVec.eq_of_getLsbD_eq; intro k hk; simp [BitVec.getLsbD_append, hk]

/-- The middle part of three words put together. -/
theorem extractLsb'_append_middle {a b n : Nat} (x : BitVec a) (y : BitVec b) (z : BitVec n) :
    (x ++ y ++ z).extractLsb' n b = y := by
  apply BitVec.eq_of_getLsbD_eq; intro k hk; simp [BitVec.getLsbD_append, hk]

theorem extractLsb'_append_top {a b n : Nat} (x : BitVec a) (y : BitVec b) (z : BitVec n) :
    (x ++ y ++ z).extractLsb' (b + n) a = x := by
  apply BitVec.eq_of_getLsbD_eq
  intro k hk
  have h1 : ¬ b + n + k < n := by omega
  have h2 : ¬ b + n + k - n < b := by omega
  have h3 : b + n + k - n - b = k := by omega
  simp only [BitVec.getLsbD_extractLsb', hk, BitVec.getLsbD_append, h1, h2, h3, decide_true, Bool.true_and, if_false]

/-- The fields of `PARAM0` (R27). -/
theorem param0Word_fields (c : Config) :
    (param0Word c).extractLsb' 0 16 = BitVec.ofNat 16 c.W ∧ (param0Word c).extractLsb' 16 8 = BitVec.ofNat 8 c.limbs ∧
    (param0Word c).extractLsb' 24 8 = BitVec.ofNat 8 c.limbBits :=
  ⟨extractLsb'_append_low _ _, extractLsb'_append_middle _ _ _, extractLsb'_append_top _ _ _⟩

/-- The fields of `PARAM1` (R27). -/
theorem param1Word_fields (c : Config) : (param1Word c).extractLsb' 0 16 = BitVec.ofNat 16 c.nb ∧
    (param1Word c).extractLsb' 16 16 = BitVec.ofNat 16 c.nIter :=
  ⟨extractLsb'_append_low _ _, extractLsb'_append_high _ _⟩

/-- The fields of `PARAM2` (R27). -/
theorem param2Word_fields (c : Config) : (param2Word c).extractLsb' 0 8 = BitVec.ofNat 8 c.batch ∧
    (param2Word c).extractLsb' 8 8 = BitVec.ofNat 8 c.nreg ∧ (param2Word c).extractLsb' 16 16 = 0#16 :=
  ⟨extractLsb'_append_low _ _, extractLsb'_append_middle _ _ _, extractLsb'_append_top _ _ _⟩

/-- `STATUS` bit by bit (R24). -/
theorem getLsbD_statusWord (s : State) (k : Nat) : s.statusWord.getLsbD k =
    if k = 0 then s.busy else if k = 1 then s.done else if k = 2 then s.valid else if k = 3 then s.result
    else if k = 8 then s.errIllegal else if k = 9 then s.errLen else if k = 10 then s.errBusy
    else if k = 11 then s.errRng else false := by
  by_cases h : k < 32
  swap
  · rw [BitVec.getLsbD_of_ge _ _ (by omega)]
    split_ifs <;> first | rfl | omega
  show BitVec.getLsbD (w := 20 + 1 + 1 + 1 + 1 + 4 + 1 + 1 + 1 + 1)
    (0#20 ++ BitVec.ofBool s.errRng ++ BitVec.ofBool s.errBusy ++ BitVec.ofBool s.errLen ++ BitVec.ofBool s.errIllegal
    ++ 0#4 ++ BitVec.ofBool s.result ++ BitVec.ofBool s.valid ++ BitVec.ofBool s.done ++ BitVec.ofBool s.busy) k = _
  simp only [BitVec.getLsbD_append, BitVec.getLsbD_ofBool, BitVec.getLsbD_zero]
  interval_cases k <;> simp

/-- `CTRL` bit by bit (R26). -/
theorem getLsbD_ctrlWord (s : State) (k : Nat) : s.ctrlWord.getLsbD k = if k = 1 then s.ie else false := by
  by_cases h : k < 32
  swap
  · rw [BitVec.getLsbD_of_ge _ _ (by omega)]
    split_ifs <;> first | rfl | omega
  show BitVec.getLsbD (w := 30 + 1 + 1) (0#30 ++ BitVec.ofBool s.ie ++ 0#1) k = _
  simp only [BitVec.getLsbD_append, BitVec.getLsbD_ofBool, BitVec.getLsbD_zero]
  interval_cases k <;> simp

/-- `STATUS` reads 0 when nothing is in flight and no bit is set. -/
theorem statusWord_zero {s : State} (h0 : s.latch = none) (h1 : s.done = false) (h2 : s.valid = false)
    (h3 : s.result = false) (h4 : s.errIllegal = false) (h5 : s.errLen = false) (h6 : s.errBusy = false)
    (h7 : s.errRng = false) : s.statusWord = 0 := by
  simp [State.statusWord, State.busy, *]

/-- `CTRL` reads 0 when interrupts are off. -/
theorem ctrlWord_zero {s : State} (h : s.ie = false) : s.ctrlWord = 0 := by simp [State.ctrlWord, h]

/-- What a reset of either kind leaves, with the pin at either level (R121, R122). -/
theorem atReset_blockReset (s : State) (level : Bool) : ({ s.blockReset with rstN := level } : State).AtReset :=
  ⟨fun i => (feAt_congr rfl i).trans (feAt_resetOf s.cfg i), rfl, rfl, rfl,
    statusWord_zero rfl rfl rfl rfl rfl rfl rfl rfl, ctrlWord_zero rfl, rfl, rfl, rfl⟩

/-- Lane `t` of `BUFW[k]` (R37). -/
theorem bufWord_lane (s : State) (k : Nat) {t : Nat} (h : t < 4) :
    (s.bufWord k).extractLsb' (8 * t) 8 = s.bufLane (4 * k + t) := by
  apply BitVec.eq_of_getLsbD_eq
  intro p hp
  rw [BitVec.getLsbD_extractLsb']
  simp only [hp, decide_true, Bool.true_and]
  show BitVec.getLsbD (w := 8 + 8 + 8 + 8)
    (s.bufLane (4 * k + 3) ++ s.bufLane (4 * k + 2) ++ s.bufLane (4 * k + 1) ++ s.bufLane (4 * k)) (8 * t + p) = _
  simp only [BitVec.getLsbD_append]
  interval_cases t
  · have : 8 * 0 + p < 8 := by omega
    simp [hp]
  · have h1 : ¬ 8 * 1 + p < 8 := by omega
    have h2 : 8 * 1 + p - 8 = p := by omega
    simp only [h1, h2, hp, if_true, if_false]
  · have h1 : ¬ 8 * 2 + p < 8 := by omega
    have h2 : 8 * 2 + p - 8 - 8 = p := by omega
    have h3 : ¬ 8 * 2 + p - 8 < 8 := by omega
    simp only [h1, h2, h3, hp, if_true, if_false]
  · have h1 : ¬ 8 * 3 + p < 8 := by omega
    have h2 : 8 * 3 + p - 8 - 8 - 8 = p := by omega
    have h3 : ¬ 8 * 3 + p - 8 < 8 := by omega
    have h4 : ¬ 8 * 3 + p - 8 - 8 < 8 := by omega
    simp only [h1, h2, h3, h4, if_false]

/-- `BUFW[k]` reads 0 where none of its lanes holds a byte (R36). -/
theorem bufWord_padding (s : State) {k : Nat} (h : s.cfg.nb ≤ 4 * k) : s.bufWord k = 0 := by
  have lane : ∀ j, 4 * k ≤ j → s.bufLane j = 0 := fun j hj => by
    simp only [State.bufLane]; rw [if_neg (by omega)]
  simp [State.bufWord, lane]

/-- What a write of `BUFW[k]` leaves at index `j` of `BUF` (R37, R38). -/
theorem read_writeBufWord {s : State} (k : Nat) (v : Word) (hm : Memory.wf s.buf = true) (j : Nat) :
    Memory.read (s.writeBufWord k v).buf j =
      if 4 * k ≤ j ∧ j < 4 * k + 4 ∧ j < s.cfg.nb then v.extractLsb' (8 * (j - 4 * k)) 8 else Memory.read s.buf j := by
  have lane : ∀ (m : Memory) (i : Nat) (b : Byte), Memory.wf m = true →
      Memory.wf (if i < s.cfg.nb then Memory.write m i b else m) = true ∧
      Memory.read (if i < s.cfg.nb then Memory.write m i b else m) j =
        if j = i ∧ i < s.cfg.nb then b else Memory.read m j := by
    intro m i b hm
    by_cases hi : i < s.cfg.nb
    · simp only [hi, if_true, and_true]; exact ⟨Memory.wf_write hm i b, Memory.read_write hm i j b⟩
    · simp only [hi, if_false, and_false]; exact ⟨hm, trivial⟩
  simp only [State.writeBufWord, writeLane_eq]
  have h0 := lane s.buf (4 * k) (v.extractLsb' 0 8) hm
  have h1 := lane _ (4 * k + 1) (v.extractLsb' 8 8) h0.1
  have h2 := lane _ (4 * k + 2) (v.extractLsb' 16 8) h1.1
  have h3 := lane _ (4 * k + 3) (v.extractLsb' 24 8) h2.1
  rw [h3.2, h2.2, h1.2, h0.2]
  by_cases hw : 4 * k ≤ j ∧ j < 4 * k + 4 ∧ j < s.cfg.nb
  · obtain ⟨t, rfl⟩ : ∃ t, j = 4 * k + t := ⟨j - 4 * k, by omega⟩
    have ht : t < 4 := by omega
    rw [if_pos hw]
    interval_cases t <;> simp <;> omega
  · rw [if_neg hw]
    split_ifs <;> first | rfl | omega

/-- `INTW[j]` bit by bit (R39). -/
theorem getLsbD_intWord (s : State) (j : Nat) {p : Nat} (h : p < 32) :
    (s.intWord j).getLsbD p = (decide (32 * j + p < s.cfg.intBits) && s.int.testBit (32 * j + p)) := by
  simp only [State.intWord, BitVec.getLsbD_ofNat, h, decide_true, Bool.true_and, Nat.testBit_div_two_pow,
    Nat.testBit_mod_two_pow, Nat.add_comm p]

/-- `INTW[j]` reads 0 where none of its positions holds a bit (R36). -/
theorem intWord_padding (s : State) {j : Nat} (h : s.cfg.intBits ≤ 32 * j) : s.intWord j = 0 := by
  apply BitVec.eq_of_getLsbD_eq
  intro p hp
  rw [getLsbD_intWord s j hp]
  have : ¬ 32 * j + p < s.cfg.intBits := by omega
  simp [this]

theorem replaceWord_lt (n j : Nat) (v : Word) (width : Nat) : replaceWord n j v width < 2 ^ width :=
  Nat.mod_lt _ (Nat.two_pow_pos _)

/-- Replacing a word of an integer, bit by bit (R39). -/
theorem testBit_replaceWord (n j : Nat) (v : Word) (width p : Nat) : (replaceWord n j v width).testBit p =
    (decide (p < width) && if 32 * j ≤ p ∧ p < 32 * j + 32 then v.getLsbD (p - 32 * j) else n.testBit p) := by
  have hv : v.toNat < 2 ^ 32 := v.isLt
  have e : n / 2 ^ (32 * j + 32) * 2 ^ (32 * j + 32) + v.toNat * 2 ^ (32 * j) + n % 2 ^ (32 * j) =
      2 ^ (32 * j) * (2 ^ 32 * (n / 2 ^ (32 * j + 32)) + v.toNat) + n % 2 ^ (32 * j) := by
    rw [pow_add]; ring
  rw [replaceWord, Nat.testBit_mod_two_pow, e, Nat.testBit_two_pow_mul_add _ (Nat.mod_lt _ (Nat.two_pow_pos _))]
  congr 1
  split
  · next h =>
    rw [Nat.testBit_mod_two_pow, if_neg (by omega)]; simp [h]
  · next h =>
    rw [Nat.testBit_two_pow_mul_add _ hv]
    split
    · next h2 => rw [if_pos (by omega)]; rfl
    · next h2 =>
      rw [if_neg (by omega), Nat.testBit_div_two_pow]; congr 1; omega

/-- Out of reset on an idle block, a write of `INTW[j]` past the last bit of `INT` changes nothing (R36). -/
theorem replaceWord_padding {n j width : Nat} (v : Word) (h : width ≤ 32 * j) (hn : n < 2 ^ width) :
    replaceWord n j v width = n := by
  apply Nat.eq_of_testBit_eq
  intro p
  rw [testBit_replaceWord]
  by_cases hp : p < width
  · rw [if_neg (by omega)]; simp [hp]
  · have : n.testBit p = false := Nat.testBit_lt_two_pow (lt_of_lt_of_le hn (Nat.pow_le_pow_right (by norm_num) (by omega)))
    simp [hp, this]

end Sys2Proof.Machine
end

