-- ==== Sys2Proof/Laws/Codec.lean ====
section
/-! SUPPORT. The byte-sequence conversions: bounds, lengths and the round trips of one conversion with its inverse. -/

namespace Sys2Proof.Machine

@[simp] theorem leBytes_length (n x : Nat) : (leBytes n x).length = n := by
  induction n generalizing x with
  | zero => rfl
  | succ n ih => simp [leBytes, ih]

@[simp] theorem beBytes_length (n x : Nat) : (beBytes n x).length = n := by simp [beBytes]

theorem leInt_lt (bs : List Byte) : leInt bs < 256 ^ bs.length := by
  induction bs with
  | nil => simp [leInt]
  | cons b bs ih =>
    have := b.isLt
    simp only [leInt, List.length_cons, pow_succ]
    omega

theorem leInt_leBytes (n : Nat) : ∀ x, x < 256 ^ n → leInt (leBytes n x) = x := by
  induction n with
  | zero => intro x h; simp at h; subst h; rfl
  | succ n ih =>
    intro x h
    have h1 : x / 256 < 256 ^ n := by rw [Nat.div_lt_iff_lt_mul (by norm_num)]; rwa [pow_succ] at h
    simp only [leBytes, leInt, ih _ h1, BitVec.toNat_ofNat]
    omega

theorem leBytes_leInt (bs : List Byte) : leBytes bs.length (leInt bs) = bs := by
  induction bs with
  | nil => rfl
  | cons b bs ih =>
    have hb := b.isLt
    simp only [List.length_cons, leBytes, leInt]
    have h1 : (b.toNat + 256 * leInt bs) / 256 = leInt bs := by omega
    have h2 : (b.toNat + 256 * leInt bs) % 256 % 256 = b.toNat := by omega
    rw [h1, ih]
    congr 1
    apply BitVec.eq_of_toNat_eq
    simp only [BitVec.toNat_ofNat]
    omega

theorem beInt_beBytes {n x : Nat} (h : x < 256 ^ n) : beInt (beBytes n x) = x := by
  simp [beInt, beBytes, leInt_leBytes n x h]

theorem beBytes_beInt (bs : List Byte) : beBytes bs.length (beInt bs) = bs := by
  have := leBytes_leInt bs.reverse
  simp only [List.length_reverse] at this
  simp [beInt, beBytes, this]

end Sys2Proof.Machine
end

