-- ==== Sys2Proof/Laws/Decode.lean ====
section
/-! SUPPORT. The fields of a packed word, and what it means that a word matches a row. -/

namespace Sys2Proof

/-- Bit `k` of a packed word is a bit of the field that holds it (R51). -/
theorem RawCmd.getLsbD_pack (r : RawCmd) (k : Nat) : r.pack.getLsbD k =
    if k < 8 then r.op.getLsbD k else if k < 12 then r.rd.getLsbD (k - 8)
    else if k < 16 then r.rs1.getLsbD (k - 12) else if k < 20 then r.rs2.getLsbD (k - 16)
    else if k < 21 then r.ci.getLsbD (k - 20) else r.reserved.getLsbD (k - 21) := by
  show BitVec.getLsbD (w := 11 + 1 + 4 + 4 + 4 + 8) (r.reserved ++ r.ci ++ r.rs2 ++ r.rs1 ++ r.rd ++ r.op) k = _
  simp only [BitVec.getLsbD_append]
  split_ifs <;> first | rfl | omega

/-- Taking the fields of a packed word gives them back (R51). -/
theorem RawCmd.ofWord_pack (r : RawCmd) : RawCmd.ofWord r.pack = r := by
  have eq : ∀ {n : Nat} (lo : Nat) (x : BitVec n),
      (∀ k, k < n → r.pack.getLsbD (lo + k) = x.getLsbD k) → r.pack.extractLsb' lo n = x := by
    intro n lo x h
    apply BitVec.eq_of_getLsbD_eq
    intro k hk
    simp [hk, h k hk]
  cases r with
  | mk op rd rs1 rs2 ci reserved =>
    simp only [RawCmd.ofWord, RawCmd.mk.injEq]
    refine ⟨eq _ _ ?_, eq _ _ ?_, eq _ _ ?_, eq _ _ ?_, eq _ _ ?_, eq _ _ ?_⟩ <;>
      intro k hk <;> rw [RawCmd.getLsbD_pack]
    all_goals (split_ifs <;> first | omega | (congr 1; omega))

/-- Packing the fields of a word gives it back (R51: the fields cover the word). -/
theorem RawCmd.pack_ofWord (w : Word) : (RawCmd.ofWord w).pack = w := by
  apply BitVec.eq_of_getLsbD_eq
  intro k hk
  rw [RawCmd.getLsbD_pack]
  simp only [RawCmd.ofWord, BitVec.getLsbD_extractLsb']
  split
  · simp [*]
  split
  · have : k - 8 < 4 := by omega
    have e : 8 + (k - 8) = k := by omega
    simp [this, e]
  split
  · have : k - 12 < 4 := by omega
    have e : 12 + (k - 12) = k := by omega
    simp [this, e]
  split
  · have : k - 16 < 4 := by omega
    have e : 16 + (k - 16) = k := by omega
    simp [this, e]
  split
  · have : k - 20 < 1 := by omega
    have e : 20 + (k - 20) = k := by omega
    simp [this, e]
  · have : k - 21 < 11 := by omega
    have e : 21 + (k - 21) = k := by omega
    simp [this, e]

/-- Bit `k` of a format's mask: the opcode bits, the reserved bits and the unused fields are covered (R53). -/
theorem Format.getLsbD_mask (f : Format) : ∀ k, k < 32 → f.mask.getLsbD k =
    if k < 8 then true else if k < 12 then !f.usesRd else if k < 16 then !f.usesRs1
    else if k < 20 then !f.usesRs2 else if k < 21 then !f.usesCi else true := by
  cases f <;> decide

/-- A packed word under a format's mask keeps the opcode, the reserved bits and the unused fields. -/
theorem RawCmd.pack_and_mask (r : RawCmd) (f : Format) : r.pack &&& f.mask =
    RawCmd.pack
      { op := r.op, rd := if f.usesRd then 0 else r.rd, rs1 := if f.usesRs1 then 0 else r.rs1,
        rs2 := if f.usesRs2 then 0 else r.rs2, ci := if f.usesCi then 0 else r.ci, reserved := r.reserved } := by
  apply BitVec.eq_of_getLsbD_eq
  intro k hk
  rw [BitVec.getLsbD_and, RawCmd.getLsbD_pack, RawCmd.getLsbD_pack, Format.getLsbD_mask f k hk]
  by_cases h1 : k < 8
  · simp [h1]
  by_cases h2 : k < 12
  · cases f.usesRd <;> simp [h1, h2]
  by_cases h3 : k < 16
  · cases f.usesRs1 <;> simp [h1, h2, h3]
  by_cases h4 : k < 20
  · cases f.usesRs2 <;> simp [h1, h2, h3, h4]
  by_cases h5 : k < 21
  · cases f.usesCi <;> simp [h1, h2, h3, h4, h5]
  · simp [h1, h2, h3, h4, h5]

/-- A packed word has an opcode under a format's mask exactly when its reserved bits and unused fields are 0 (R53). -/
theorem RawCmd.pack_matches (r : RawCmd) (f : Format) (op : BitVec 8) :
    r.pack &&& f.mask = RawCmd.pack { op := op, rd := 0, rs1 := 0, rs2 := 0, ci := 0, reserved := 0 } ↔
      r.op = op ∧ (f.usesRd = true ∨ r.rd = 0) ∧ (f.usesRs1 = true ∨ r.rs1 = 0) ∧ (f.usesRs2 = true ∨ r.rs2 = 0) ∧
        (f.usesCi = true ∨ r.ci = 0) ∧ r.reserved = 0 := by
  rw [RawCmd.pack_and_mask]
  constructor
  · intro h
    have := congrArg RawCmd.ofWord h
    rw [RawCmd.ofWord_pack, RawCmd.ofWord_pack] at this
    simp only [RawCmd.mk.injEq, ite_eq_left_iff, Bool.not_eq_true] at this
    obtain ⟨h1, h2, h3, h4, h5, h6⟩ := this
    refine ⟨h1, ?_, ?_, ?_, ?_, h6⟩
    · cases h : f.usesRd <;> simp_all
    · cases h : f.usesRs1 <;> simp_all
    · cases h : f.usesRs2 <;> simp_all
    · cases h : f.usesCi <;> simp_all
  · rintro ⟨h1, h2, h3, h4, h5, h6⟩
    congr 1
    simp only [RawCmd.mk.injEq, ite_eq_left_iff, Bool.not_eq_true]
    refine ⟨h1, ?_, ?_, ?_, ?_, h6⟩ <;> intro h <;> simp_all

/-- A word matches a row exactly when it has the row's pattern under the row's mask (R62). -/
theorem Row.matchesWord_iff (r : Row) (w : Word) : r.matchesWord w = true ↔ w &&& r.mask = r.pattern := by
  simp [Row.matchesWord]

/-- A word that decodes is the command of some row that it matches (R62). -/
theorem decode_some {w : Word} {i : Instr} (h : decode w = some i) :
    ∃ r ∈ rows, w &&& r.mask = r.pattern ∧ r.build w = i := by
  simp only [decode, Option.map_eq_some_iff] at h
  obtain ⟨r, hr, hb⟩ := h
  exact ⟨r, List.mem_of_find?_eq_some hr, (r.matchesWord_iff w).1 (by simpa using List.find?_some hr), hb⟩

/-- A word decodes to nothing exactly when it matches no row (R62). -/
theorem decode_none_iff (w : Word) : decode w = none ↔ ∀ r ∈ rows, w &&& r.mask ≠ r.pattern := by
  simp [decode, List.find?_eq_none, Row.matchesWord]

end Sys2Proof
end

