-- ==== Sys2Proof/Laws/PerInstr.lean ====
section
/-! SUPPORT. What holds of every command as syntax, one lemma per constructor. -/

namespace Sys2Proof.Laws.FieldsWellFormed

/-- The fields that spell a command are legal (R57), and they are the fields of the word that spells it (R51). -/
def Statement (i : Instr) : Prop := i.wellFormed = true ∧ RawCmd.ofWord (encode i) = i.raw

theorem fromBe (rd : FReg) : Statement (.fromBe rd) := ⟨by rfl, RawCmd.ofWord_pack _⟩
theorem fromLe (rd : FReg) : Statement (.fromLe rd) := ⟨by rfl, RawCmd.ofWord_pack _⟩
theorem toBe (rs1 : FReg) : Statement (.toBe rs1) := ⟨by rfl, RawCmd.ofWord_pack _⟩
theorem toLe (rs1 : FReg) : Statement (.toLe rs1) := ⟨by rfl, RawCmd.ofWord_pack _⟩
theorem fromUint (rd : FReg) : Statement (.fromUint rd) := ⟨by rfl, RawCmd.ofWord_pack _⟩
theorem isZero (rs1 : FReg) : Statement (.isZero rs1) := ⟨by rfl, RawCmd.ofWord_pack _⟩
theorem eq (rs1 rs2 : FReg) : Statement (.eq rs1 rs2) := ⟨by rfl, RawCmd.ofWord_pack _⟩
theorem isOdd (rs1 : FReg) : Statement (.isOdd rs1) := ⟨by rfl, RawCmd.ofWord_pack _⟩
theorem gt (rs1 rs2 : FReg) : Statement (.gt rs1 rs2) := ⟨by rfl, RawCmd.ofWord_pack _⟩
theorem lt (rs1 rs2 : FReg) : Statement (.lt rs1 rs2) := ⟨by rfl, RawCmd.ofWord_pack _⟩
theorem dbl (rd rs1 : FReg) : Statement (.dbl rd rs1) := ⟨by rfl, RawCmd.ofWord_pack _⟩
theorem sqr (rd rs1 : FReg) : Statement (.sqr rd rs1) := ⟨by rfl, RawCmd.ofWord_pack _⟩
theorem seli (rd rs1 rs2 : FReg) (ci : Bool) : Statement (.seli rd rs1 rs2 ci) := ⟨by rfl, RawCmd.ofWord_pack _⟩
theorem selr (rd rs1 rs2 : FReg) : Statement (.selr rd rs1 rs2) := ⟨by rfl, RawCmd.ofWord_pack _⟩
theorem add (rd rs1 rs2 : FReg) : Statement (.add rd rs1 rs2) := ⟨by rfl, RawCmd.ofWord_pack _⟩
theorem sub (rd rs1 rs2 : FReg) : Statement (.sub rd rs1 rs2) := ⟨by rfl, RawCmd.ofWord_pack _⟩
theorem mul (rd rs1 rs2 : FReg) : Statement (.mul rd rs1 rs2) := ⟨by rfl, RawCmd.ofWord_pack _⟩
theorem neg (rd rs1 : FReg) : Statement (.neg rd rs1) := ⟨by rfl, RawCmd.ofWord_pack _⟩
theorem inv (rd rs1 : FReg) : Statement (.inv rd rs1) := ⟨by rfl, RawCmd.ofWord_pack _⟩
theorem rand (rd : FReg) : Statement (.rand rd) := ⟨by rfl, RawCmd.ofWord_pack _⟩

end Sys2Proof.Laws.FieldsWellFormed
end

