-- ==== Sys2Proof/Tests/Slice0.lean ====
section
/-! SUPPORT. Tests with values taken from the spec's vectors (spec/95_test_vectors.md, cited as V-...) and worked examples,
and for each statement that has hypotheses a witness that they can be met, clause by clause. -/

namespace Sys2Proof.Tests

open Sys2Proof Sys2Proof.Machine

/-! ## Ill-formed fields are refused, one for each check of WellFormed -/

theorem test_well_formed_sound_example : (RawCmd.ofWord 0x00010218).wellFormed = true := by decide

/-- Opcode 0x06 is not assigned (R57). -/
theorem test_ill_formed_opcode :
    RawCmd.wellFormed { op := 0x06, rd := 0, rs1 := 0, rs2 := 0, ci := 0, reserved := 0 } = false := by decide

/-- A reserved bit is set (R52). -/
theorem test_ill_formed_reserved :
    RawCmd.wellFormed { op := 0x01, rd := 0, rs1 := 0, rs2 := 0, ci := 0, reserved := 1 } = false := by decide

/-- `TO_BE` with `RD = 1` (R53). -/
theorem test_ill_formed_rd :
    RawCmd.wellFormed { op := 0x03, rd := 1, rs1 := 0, rs2 := 0, ci := 0, reserved := 0 } = false := by decide

/-- `FROM_BE` with `RS1 = 1` (R53). -/
theorem test_ill_formed_rs1 :
    RawCmd.wellFormed { op := 0x01, rd := 0, rs1 := 1, rs2 := 0, ci := 0, reserved := 0 } = false := by decide

/-- `INV` with `RS2 = 8` (R53). -/
theorem test_ill_formed_rs2 :
    RawCmd.wellFormed { op := 0x20, rd := 0, rs1 := 0, rs2 := 8, ci := 0, reserved := 0 } = false := by decide

/-- `SELR` with `CI = 1` (R53, V-D30). -/
theorem test_ill_formed_ci :
    RawCmd.wellFormed { op := 0x13, rd := 2, rs1 := 0, rs2 := 1, ci := 1, reserved := 0 } = false := by decide

/-! ## Decoding: the words of V-D1 to V-D31, written out in the spec -/

theorem test_decode_from_be : decode 0x00000001 = some (.fromBe 0) := by decide
theorem test_decode_from_le : decode 0x00000002 = some (.fromLe 0) := by decide
theorem test_decode_to_be : decode 0x00001003 = some (.toBe 1) := by decide
theorem test_decode_to_le : decode 0x00001004 = some (.toLe 1) := by decide
theorem test_decode_from_uint : decode 0x00000305 = some (.fromUint 3) := by decide
theorem test_decode_is_zero : decode 0x00000008 = some (.isZero 0) := by decide
theorem test_decode_eq : decode 0x00032009 = some (.eq 2 3) := by decide
theorem test_decode_is_odd : decode 0x0000000A = some (.isOdd 0) := by decide
theorem test_decode_gt : decode 0x0002100B = some (.gt 1 2) := by decide
theorem test_decode_lt : decode 0x0002100C = some (.lt 1 2) := by decide
theorem test_decode_dbl : decode 0x00004310 = some (.dbl 3 4) := by decide
theorem test_decode_sqr : decode 0x00004311 = some (.sqr 3 4) := by decide
theorem test_decode_seli : decode 0x00165412 = some (.seli 4 5 6 true) ∧ decode 0x00065412 = some (.seli 4 5 6 false) := by
  decide
theorem test_decode_selr : decode 0x00010213 = some (.selr 2 0 1) := by decide
theorem test_decode_add : decode 0x00010218 = some (.add 2 0 1) := by decide
theorem test_decode_sub : decode 0x00010219 = some (.sub 2 0 1) := by decide
theorem test_decode_mul : decode 0x0001021A = some (.mul 2 0 1) := by decide
theorem test_decode_neg : decode 0x0000FF1B = some (.neg 15 15) := by decide
theorem test_decode_inv : decode 0x00000120 = some (.inv 1 0) := by decide
theorem test_decode_rand : decode 0x00000521 = some (.rand 5) := by decide

/-- V-D22 and V-D23: the pseudo-instructions `mov f1, f2` and `zero f7` (R61). -/
theorem test_decode_pseudo : decode 0x00022112 = some (.seli 1 2 2 false) ∧ decode 0x00077719 = some (.sub 7 7 7) := by decide

/-- V-D24 to V-D26: unassigned opcodes. -/
theorem test_decode_unassigned : [0x00000000, 0x00000006, 0x000000FF].map decodeNamed =
    List.replicate 3 (.error .unassignedOpcode) := by decide

/-- V-D27, V-D28, V-D30: unused fields that are not 0. -/
theorem test_decode_unused : [0x00001001, 0x00100001, 0x00110213].map decodeNamed =
    List.replicate 3 (.error .unusedField) := by decide

/-- V-D29 and V-D31: reserved bits. -/
theorem test_decode_reserved : [0x00200001, 0x80165412].map decodeNamed = List.replicate 2 (.error .reservedBits) := by
  decide

/-- The examples of R60, encoded. -/
theorem test_encode : encode (.fromBe 2) = 0x00000201 ∧ encode (.toLe 3) = 0x00003004 ∧ encode (.gt 1 2) = 0x0002100B ∧
    encode (.inv 1 0) = 0x00000120 ∧ encode (.mul 2 0 1) = 0x0001021A ∧ encode (.seli 4 5 6 true) = 0x00165412 := by decide

theorem test_decode_table_word : decodeTableWord 32 0x00010218 = some (.add 2 0 1) ∧ decodeTableWord 32 0x1001 = none ∧
    decodeTableWord 8 0x01 = some (.fromBe 0) := by decide

/-! ## Configurations -/

/-- `TOY13` passes the exhaustive checks that `Config.ok` takes as passed for it (R7, R98). -/
theorem test_toy13_checks : Config.toy13.fits = true ∧ Config.toy13.primeCheck = true ∧
    Config.toy13.convergenceCheck = true := by decide +kernel

theorem test_p384_fits : Config.p384.fits = true ∧ Config.p384.ok = true := by decide +kernel

/-- `P = 9` is no prime: R7 calls the configuration invalid. -/
theorem test_composite_is_refused : ({ Config.toy13 with P := 9 } : Config).ok = false := by decide +kernel

/-- An even `P` is refused (X12). -/
theorem test_even_is_refused : step (State.resetOf { Config.toy13 with P := 14 }) = .refused .invalidConfiguration := by
  rfl

/-- `TOY13` is valid: 13 is prime, and 15 divsteps bring every nonzero residue to `g = 0`, `f = ±1` (V-F1's last column). -/
theorem witness_toy13_valid : Config.toy13.Valid := by
  refine ⟨by decide, show Nat.Prime 13 by norm_num, ?_⟩
  intro a h1 h2
  have h3 : a < 13 := h2
  refine ⟨15, by decide, ?_⟩
  interval_cases a <;> decide +kernel

/-! ## States for the tests -/

/-- `TOY13` out of reset, idle, with `BUF = [0x05]`, `BUF_LEN = 1`, `FE[0] = 6` (value 5) and `FE[1] = 11` (value 7). -/
def idle : State :=
  { State.reset with buf := [(0, 0x05)], bufLen := 1, fe := #v[6, 11, 0, 0, 0, 0, 0, 0, 0, 0, 0, 0, 0, 0, 0, 0] }

/-- The same with a command in flight that read the sources given. -/
def flying (i : Instr) (o : Operands) : State := { idle with latch := some { instr := i, src := o } }

/-- Sources that are two registers. -/
def two (a b : Nat) : Operands := { Operands.empty with a := a, b := b }

/-- The state an outcome leaves; for an outcome that leaves none, a state no test below expects. -/
def landed : Result → State
  | .next t => t
  | .fault _ | .refused _ => { State.reset with rstN := false }

/-- The state after the last turn of a command that read `o`. -/
def done (i : Instr) (o : Operands) : State := landed (exec i (flying i o))

/-- `mont(2)` in `P384`, V-C4. -/
def montTwo : Nat := 0x00000000_00000000_00000000_00000000_00000000_00000000_00000000_00000002_00000001_ffffffff_fffffffe_00000002

/-! ## Commands, one step each -/

/-- V-C1 and V-C2. -/
theorem test_from_be : (done (.fromBe 0) { Operands.empty with buf := [(0, 0x05)] }).feAt 0 = 6 ∧
    (done (.fromBe 0) { Operands.empty with buf := [(0, 0x0C)] }).statusWord = 0x00000006 := by decide

/-- V-C3: `P` itself is out of range; the register is written with 0. -/
theorem test_from_be_range : (done (.fromBe 0) { Operands.empty with buf := [(0, 0x0D)] }).feAt 0 = 0 ∧
    (done (.fromBe 0) { Operands.empty with buf := [(0, 0x0D)] }).statusWord = 0x00000002 := by decide

/-- V-C4: `FROM_LE` of 2 in `P384`: the first byte is the least significant. -/
theorem test_from_le : (landed (exec (.fromLe 0)
    { State.resetOf Config.p384 with
      latch := some { instr := .fromLe 0, src := { Operands.empty with buf := [(0, 0x02)] } } })).feAt 0 = montTwo := by
  decide +kernel

/-- V-C8: a wrong length; no register is written. -/
theorem test_from_le_length : (landed (exec (.fromLe 0) { idle with bufLen := 2 })).statusWord = 0x00000202 ∧
    (landed (exec (.fromLe 0) { idle with bufLen := 2 })).feAt 0 = 6 := by decide

/-- V-C6. -/
theorem test_to_be : (done (.toBe 3) (two 7 0)).bufWord 0 = 0x00000008 ∧ (done (.toBe 3) (two 7 0)).bufLen = 1 := by decide

/-- V-C10: `TO_LE` of `mont(2)` in `P384`, the number of V-C4: byte 0 is 2 and byte 47 is 0. -/
theorem test_to_le : (landed (exec (.toLe 0)
    { State.resetOf Config.p384 with latch := some { instr := .toLe 0, src := two montTwo 0 } })).buf = [(0, 0x02)] := by decide +kernel

/-- V-C7. -/
theorem test_from_uint : (done (.fromUint 3) { Operands.empty with int := 1 }).feAt 3 = 9 ∧
    (done (.fromUint 3) { Operands.empty with int := 0x0C }).feAt 3 = 4 := by decide

/-- V-C7: 13 is `P`, and 0xFF has bits above `W`. -/
theorem test_from_uint_range : (done (.fromUint 3) { Operands.empty with int := 0x0D }).valid = false ∧
    (done (.fromUint 3) { Operands.empty with int := 0xFF }).feAt 3 = 0 := by decide

/-- V-K1. -/
theorem test_is_zero : (done (.isZero 0) (two 0 0)).result = true ∧ (done (.isZero 0) (two 9 0)).result = false := by decide
theorem test_eq : (done (.eq 1 2) (two 6 6)).result = true ∧ (done (.eq 1 2) (two 6 7)).result = false := by decide
/-- V-F1: value 2 is held as the odd 5 and is even; value 1 is held as 9. -/
theorem test_is_odd : (done (.isOdd 0) (two 5 0)).result = false ∧ (done (.isOdd 0) (two 9 0)).result = true := by decide
/-- V-K1: value 2 (held as 5) is greater than value 1 (held as 9). -/
theorem test_gt : (done (.gt 1 2) (two 5 9)).result = true ∧ (done (.gt 1 2) (two 6 6)).result = false := by decide
theorem test_lt : (done (.lt 1 2) (two 5 9)).result = false ∧ (done (.lt 1 2) (two 6 6)).result = false := by decide
/-- V-F1, value 7. -/
theorem test_dbl : (done (.dbl 3 1) (two 11 0)).feAt 3 = 9 := by decide
/-- V-F1, values 5 and 4. -/
theorem test_sqr : (done (.sqr 3 0) (two 6 0)).feAt 3 = 4 ∧ (done (.sqr 3 0) (two 10 0)).feAt 3 = 1 := by decide
/-- V-S1. -/
theorem test_seli : (done (.seli 4 5 6 true) (two 6 11)).feAt 4 = 11 ∧ (done (.seli 4 5 6 false) (two 6 11)).feAt 4 = 6 := by
  decide
/-- V-S1: the choice is the flag read at accept, whatever the flag is now. -/
theorem test_selr : (done (.selr 4 5 6) { two 6 11 with result := true }).feAt 4 = 11 ∧
    (done (.selr 4 5 6) (two 6 11)).feAt 4 = 6 := by decide
/-- V-E1, second row: the sum wraps to zero. -/
theorem test_add : (done (.add 2 0 1) (two 12 1)).feAt 2 = 0 ∧ (done (.add 2 0 1) (two 6 11)).feAt 2 = 4 := by decide
/-- V-E1, rows one and four: minuend below subtrahend. -/
theorem test_sub : (done (.sub 2 0 1) (two 6 11)).feAt 2 = 8 ∧ (done (.sub 2 0 1) (two 0 5)).feAt 2 = 8 := by decide
/-- V-E1. -/
theorem test_mul : (done (.mul 2 0 1) (two 6 11)).feAt 2 = 3 ∧ (done (.mul 2 0 1) (two 12 1)).feAt 2 = 10 := by decide
/-- V-E1: `NEG(0)` is 0, not `P`. -/
theorem test_neg : (done (.neg 1 0) (two 6 0)).feAt 1 = 7 ∧ (done (.neg 1 0) (two 0 0)).feAt 1 = 0 := by decide

/-- `rd` equal to a source: the old value was read at accept (R16, R54). -/
theorem test_accept_reads_sources : (landed (exec (.add 0 0 1) idle)).latch =
    some { instr := .add 0 0 1, src := two 6 11 } := by decide

/-- V-I1, the step from row 0 to row 1 (swap) and from row 4 to row 5 (no swap, `g` odd). -/
theorem test_divstep : divstep Config.toy13 { d := 1, f := 13, g := 5, v := 0, r := 9 } =
      { d := 0, f := 5, g := -4, v := 5, r := 9 } ∧
    divstep Config.toy13 { d := -1, f := -1, g := -3, v := 5, r := 2 } =
      { d := 0, f := -1, g := -2, v := 10, r := 7 } := by decide

/-- V-I1 and V-I3, the last rows. -/
theorem test_divstep_iterated : divstepIter Config.toy13 15 (divInit Config.toy13 5) =
      { d := 8, f := -1, g := 0, v := 9, r := 0 } ∧
    divstepIter Config.toy13 15 (divInit Config.toy13 12) = { d := 6, f := 1, g := 0, v := 6, r := 0 } := by decide +kernel

/-- An inversion that has done its 15 iterations (an odd number: the last set is B), V-I1's last row. -/
def inverted (last : DivState) (o : Operands) : State :=
  { flying (.inv 1 0) o with setB := last, iter := 15 }

/-- V-I1: `invert(5) = 8`, through the negation. -/
theorem test_inv_negative : (landed (exec (.inv 1 0)
    (inverted { d := 8, f := -1, g := 0, v := 9, r := 0 } (two 6 0)))).feAt 1 = 7 := by decide +kernel

/-- V-I2: zero gives 0 and `VALID = 0`. -/
theorem test_inv_zero : (landed (exec (.inv 1 0)
    (inverted { d := 16, f := 13, g := 0, v := 0, r := 9 } (two 0 0)))).statusWord = 0x00000002 := by decide +kernel

/-- V-R1: 240 is rejected and asked for again; 7 is accepted and gives 11. -/
theorem test_rand : (landed (exec (.rand 5) { flying (.rand 5) Operands.empty with draw := some (.bytes [0xF0]) })).rngReq = true ∧
    (landed (exec (.rand 5) { flying (.rand 5) Operands.empty with draw := some (.bytes [0x07]) })).feAt 5 = 11 := by decide

/-- V-R2: a failing source; V-R4: no answer. -/
theorem test_rand_fail : (landed (exec (.rand 5)
      { flying (.rand 5) Operands.empty with draw := some .fail })).statusWord = 0x00000802 ∧
    exec (.rand 5) (flying (.rand 5) Operands.empty) = .next (flying (.rand 5) Operands.empty) := ⟨by decide, rfl⟩

/-- `PRECOMP` of `P384` (V-I7) and `RINV` (V-E2). -/
theorem test_p384_constants : Config.p384.precomp =
    0xfffe2400_0001c000_00030200_00028200_00014200_000017ff_ffff6dff_ffff4bff_00015bfe_ffffe9ff_fffb4a00_fff8c7ff ∧
    Config.p384.rinv =
    0x00000014_00000014_0000000c_00000002_fffffffc_fffffffa_fffffffb_fffffffd_ffffffeb_ffffffd8_ffffffe1_00000006 := by
  decide +kernel

/-! ## The window, one step each -/

/-- What a step on a host access answers the host. -/
def answer (s : State) (e : Event) : Option BusResp := (landed (s.stepOn e)).resp

/-- V-X14. -/
theorem test_identification : answer idle (idle.readFrom 0x000) = some (.data 0x53474344) ∧
    answer idle (idle.readFrom 0x004) = some (.data 0x08010004) ∧
    answer idle (idle.readFrom 0x008) = some (.data 0x000F0001) ∧
    answer idle (idle.readFrom 0x00C) = some (.data 0x00001001) := by decide

/-- V-X1: an illegal word. -/
theorem test_illegal_word : (landed (State.reset.stepOn (State.reset.writeTo 0x018 0))).statusWord = 0x00000102 := by decide

/-- V-X4: a length error. -/
theorem test_length_error : (landed (State.reset.stepOn (State.reset.writeTo 0x018 0x00000001))).statusWord = 0x00000202 := by
  decide

/-- V-X3: clearing `DONE` and all errors in one write. -/
theorem test_write_one_to_clear : (landed (({ idle with done := true, errIllegal := true, errRng := true } : State).stepOn
    (idle.writeTo 0x014 0x00000F02))).statusWord = 0 := by decide

/-- V-X5: clearing `DONE` leaves `VALID`. -/
theorem test_clear_done_only : (landed (({ idle with done := true, valid := true } : State).stepOn
    (idle.writeTo 0x014 0x00000002))).statusWord = 0x00000004 := by decide

/-- V-X6: a `CMD` write while an inversion is in flight. -/
theorem test_busy_command : (landed ((flying (.inv 1 0) (two 6 0)).stepOn (idle.writeTo 0x018 0x00000001))).statusWord =
    0x00000401 := by decide

/-- V-X7: `BUF` keeps its contents. -/
theorem test_busy_buffer : (landed ((flying (.inv 1 0) (two 6 0)).stepOn (idle.writeTo 0x100 0x00000055))).buf =
    [(0, 0x05)] := by decide

/-- V-X9: a soft reset while busy. -/
theorem test_soft_reset : (landed ((flying (.inv 1 0) (two 6 0)).stepOn (idle.writeTo 0x010 0x00000003))).statusWord = 0 ∧
    (landed ((flying (.inv 1 0) (two 6 0)).stepOn (idle.writeTo 0x010 0x00000003))).ctrlWord = 0 := by decide

/-- V-X10: a 16-bit write, and a 32-bit read at 0x016. -/
theorem test_bus_errors : answer idle (.host (.write 0x014 2 0)) = some .busError ∧
    answer idle (.host (.read 0x016 4)) = some .busError := by decide

/-- V-X11: the interrupt. -/
theorem test_irq : (landed (exec (.add 2 0 1) { flying (.add 2 0 1) (two 6 11) with ie := true })).irq = true := by decide

/-- V-X12: a reserved offset; V-X13: `CMD` reads 0. -/
theorem test_reserved : answer idle (idle.readFrom 0x020) = some (.data 0) ∧ answer idle (idle.readFrom 0x018) = some (.data 0) ∧
    landed (idle.stepOn (idle.writeTo 0x020 0xFFFFFFFF)) = { idle with resp := some .ack } := by decide

/-- V-C7: bits 31:8 of `INTW[0]` are dropped in `TOY13`. -/
theorem test_integer_window : (landed (idle.stepOn (idle.writeTo 0x400 0x000001FF))).int = 0xFF := by decide

/-- R38: in `TOY13` only lane 0 of `BUFW[0]` holds a byte. -/
theorem test_buffer_window : (landed (idle.stepOn (idle.writeTo 0x100 0x11223344))).bufWord 0 = 0x00000044 := by decide

/-- R20: bits 31:16 of `BUF_LEN` are dropped. -/
theorem test_buf_len : (landed (idle.stepOn (idle.writeTo 0x01C 0xABCD0030))).bufLen = 0x0030 := by decide

/-- An address past the window is no address of the block. -/
theorem test_outside_window : idle.stepOn (.host (.read 0x800 4)) = .fault .outsideWindow := by rfl

/-- R121: in reset a write is ignored. -/
theorem test_reset_pin : landed (({ State.reset with rstN := false } : State).stepOn (State.reset.writeTo 0x01C 1)) =
    { State.reset with rstN := false, resp := some .ack } := by decide

/-- A word the host places is what the first step after reset runs (V-D16). -/
theorem test_first_step : (landed (step (State.reset.withFetchWord 32 0x00010218))).latch =
    some { instr := .add 2 0 1, src := Operands.empty } := by decide

/-! ## Witnesses: the hypotheses of each statement can be met -/

theorem witness_encode_of_decode : decode 0x00165412 = some (.seli 4 5 6 true) := by decide

/-- Each of the three clauses of R57, and each unused field of the third. -/
theorem witness_illegal_words :
    ((0x22 : Word).extractLsb' 0 8).toNat ∉ [0x01, 0x20, 0x21] ∧ decode 0x00000022 = none ∧ decode 0x80000001 = none ∧
    decode 0x00200021 = none ∧ decode 0x00000103 = none ∧ decode 0x00008020 = some (.inv 0 8) ∧ decode 0x00001021 = none ∧
    decode 0x00080020 = none ∧ decode 0x0010001A = none ∧
    State.reset.cfg.ok = true ∧ State.reset.rstN = true ∧ State.reset.latch = none := by decide

theorem witness_decoding_picks_the_one_row : decode 0x0000FF1B = some (.neg 15 15) ∧ decode 0x0010FF1B = none := by decide

/-- The three clauses: an idle block, a block with a command in flight and no input to come, a word below `2^32`. -/
theorem witness_step_runs : idle.cfg.ok = true ∧ idle.rstN = true ∧ idle.latch = none ∧
    decode 0x00000120 = some (.inv 1 0) ∧
    (flying (.inv 1 0) (two 6 0)).cfg.ok = true ∧ (flying (.inv 1 0) (two 6 0)).rstN = true ∧
    (flying (.inv 1 0) (two 6 0)).latch = some { instr := .inv 1 0, src := two 6 0 } ∧
    (flying (.inv 1 0) (two 6 0)).events = [] ∧
    0x0000FF1B < 2 ^ 32 ∧ decode (BitVec.ofNat 32 0x0000FF1B) = some (.neg 15 15) := by decide

/-- The four clauses: busy; illegal; `BUF_LEN` one above `NB`; and accepted, with `BUF_LEN = NB` and without a check. -/
theorem witness_command_write_checks : (flying (.neg 1 0) (two 6 0)).latch ≠ none ∧ idle.latch = none ∧
    decode 0xFFFFFFFF = none ∧ decode 0x00000F01 = some (.fromBe 15) ∧ decode 0x00000F02 = some (.fromLe 15) ∧
    ({ idle with bufLen := 2 } : State).bufLen.toNat ≠ idle.cfg.nb ∧ idle.bufLen.toNat = idle.cfg.nb ∧
    decode 0x00000F05 = some (.fromUint 15) := by decide

/-- The boundary offsets of each clause. -/
theorem witness_writes_while_busy : (flying (.neg 1 0) (two 6 0)).cfg.ok = true ∧ (flying (.neg 1 0) (two 6 0)).rstN = true ∧
    (flying (.neg 1 0) (two 6 0)).latch ≠ none ∧
    (∀ off ∈ [0x000, 0x00C, 0x010, 0x014, 0x018, 0x01C, 0x020, 0x0FC, 0x100, 0x7FC], off % 4 = 0 ∧ off < 0x800) := by decide

/-- A write and a read that answer a next state while a command is in flight, neither a soft reset. -/
theorem witness_host_cannot_disturb : (flying (.neg 1 0) (two 6 0)).rstN = true ∧
    (∃ t, (flying (.neg 1 0) (two 6 0)).stepOn (.host (.write (idle.cfg.base + 0x010) 4 2)) = .next t) ∧
    (2 : Word).getLsbD 0 = false ∧
    (∃ t, (flying (.neg 1 0) (two 6 0)).stepOn (.host (.read 0x7FC 4)) = .next t) :=
  ⟨rfl, ⟨_, rfl⟩, rfl, ⟨_, rfl⟩⟩

/-- Widths 1, 2 and 8, and offsets that are no multiple of 4, up to the last of the window. -/
theorem witness_other_accesses : idle.cfg.ok = true ∧ idle.rstN = true ∧ 0x7FF < 0x800 ∧ (1 ≠ 4 ∧ 2 ≠ 4 ∧ 8 ≠ 4) ∧ 0x016 % 4 ≠ 0 ∧
    0x7FF % 4 ≠ 0 := by decide

/-- The first and the last offset of each range: in `TOY13` each window has one word that holds data. -/
theorem witness_reserved_places : idle.cfg.ok = true ∧ idle.rstN = true ∧ idle.latch = none ∧
    (flying (.neg 1 0) (two 6 0)).cfg.ok = true ∧ (flying (.neg 1 0) (two 6 0)).rstN = true ∧
    idle.int < 2 ^ idle.cfg.intBits ∧ 0x100 + 4 * idle.cfg.nbw = 0x104 ∧ 0x400 + 4 * idle.cfg.niw = 0x404 ∧
    (∀ off ∈ [0x000, 0x00C, 0x020, 0x0FC, 0x104, 0x3FC, 0x404, 0x7FC], off % 4 = 0 ∧ off < 0x800) := by decide

/-- The one word of the buffer window, with lane 0 below `NB` and lane 1 at it. -/
theorem witness_buffer_window : Memory.wf idle.buf = true ∧ 0 < idle.cfg.nbw ∧ 4 * 0 + 0 < idle.cfg.nb ∧
    ¬ 4 * 0 + 1 < idle.cfg.nb := by decide

/-- The one word of the integer window, with position 7 a bit of `INT` and position 8 none. -/
theorem witness_integer_window : idle.int < 2 ^ idle.cfg.intBits ∧ 0 < idle.cfg.niw ∧ 7 < idle.cfg.intBits ∧
    ¬ 8 < idle.cfg.intBits := by decide

theorem witness_status : idle.cfg.ok = true ∧ idle.rstN = true ∧ (flying (.neg 1 0) (two 6 0)).cfg.ok = true ∧
    (flying (.neg 1 0) (two 6 0)).rstN = true := by decide

/-- `CTRL` and `BUF_LEN` read their current values with a command in flight (R126). -/
theorem test_busy_reads : answer { flying (.neg 1 0) (two 6 0) with ie := true } (idle.readFrom 0x010) = some (.data 2) ∧
    answer { flying (.neg 1 0) (two 6 0) with bufLen := 0xABCD } (idle.readFrom 0x01C) = some (.data 0x0000ABCD) ∧
    answer (flying (.neg 1 0) (two 6 0)) (idle.readFrom 0x018) = some (.data 0) := by decide

theorem witness_identification : Config.toy13.ok = true ∧ Config.p384.ok = true ∧ 0x00C < 0x010 ∧ 0x00C % 4 = 0 := by
  decide +kernel

/-- The ends of both windows. -/
theorem witness_window_reads_while_busy : (flying (.rand 5) Operands.empty).latch ≠ none ∧
    (flying (.rand 5) Operands.empty).rstN = true ∧
    (∀ off ∈ [0x100, 0x3FC, 0x400, 0x7FC], 0x100 ≤ off ∧ off < 0x800 ∧ off % 4 = 0) := by decide

/-- A read that answers, of an idle block's window and of a busy block's `STATUS`. -/
theorem witness_reads : (∃ t, idle.stepOn (.host (.read 0x100 4)) = .next t) ∧
    ¬ (idle.latch ≠ none ∧ idle.cfg.base + 0x100 ≤ 0x100) ∧
    (∃ t, (flying (.neg 1 0) (two 6 0)).stepOn (.host (.read 0x014 4)) = .next t) ∧
    ¬ ((flying (.neg 1 0) (two 6 0)).latch ≠ none ∧ idle.cfg.base + 0x100 ≤ 0x014) :=
  ⟨⟨_, rfl⟩, by decide, ⟨_, rfl⟩, by decide⟩

theorem witness_soft_reset : (flying (.neg 1 0) (two 6 0)).cfg.ok = true ∧ (flying (.neg 1 0) (two 6 0)).rstN = true ∧
    (0xFFFFFFFF : Word).getLsbD 0 = true ∧ (0x00000002 : Word).getLsbD 0 = false := by decide

theorem witness_hard_reset : ({ State.reset with rstN := false } : State).cfg.ok = true ∧
    ({ State.reset with rstN := false } : State).latch = none ∧ decode 0x00000008 = some (.isZero 0) ∧
    (∀ off ∈ [0x000, 0x00C, 0x010, 0x7FC], off % 4 = 0 ∧ off < 0x800) := by decide

theorem witness_at_reset : State.reset.AtReset ∧ State.reset.cfg.fits = true :=
  ⟨⟨by decide, rfl, rfl, rfl, by decide, by decide, rfl, rfl, rfl⟩, by decide⟩

theorem witness_fits : Config.toy13.fits = true ∧ Config.p384.fits = true := by decide +kernel

/-- The last integer of two bytes. -/
theorem witness_byte_conversions : 65535 < 256 ^ 2 ∧ leBytes 2 65534 = [0xFE, 0xFF] ∧ beBytes 2 65534 = [0xFF, 0xFE] := by
  decide

theorem witness_montgomery : Config.toy13.fits = true ∧ 12 < Config.toy13.P := by decide

/-- `FROM_BE` and `FROM_LE`: a wrong length, the right one, and in flight. -/
theorem witness_decode_commands : ({ idle with bufLen := 0 } : State).latch = none ∧
    ({ idle with bufLen := 0 } : State).bufLen.toNat ≠ idle.cfg.nb ∧ idle.latch = none ∧ idle.bufLen.toNat = idle.cfg.nb ∧
    (flying (.fromBe 0) (two 0 0)).latch = some { instr := .fromBe 0, src := two 0 0 } ∧
    (flying (.fromLe 0) (two 0 0)).latch = some { instr := .fromLe 0, src := two 0 0 } := by decide

/-- The words of a row: one that fits the mask, one with the opcode that does not, on a busy and on an idle block. -/
theorem witness_spelled : (0x00000F01 : Word) &&& 0xFFFFF0FF = 0x00000001 ∧ (0x00001001 : Word) &&& 0xFFFFF0FF ≠ 0x00000001 ∧
    (0x00001001 : Word).extractLsb' 0 8 = (0x00000001 : Word).extractLsb' 0 8 ∧
    (flying (.neg 1 0) (two 6 0)).latch ≠ none ∧ idle.latch = none ∧ idle.cfg.ok = true ∧ idle.rstN = true := by decide

theorem witness_from_uint : idle.latch = none ∧
    (flying (.fromUint 3) { Operands.empty with int := 12 }).latch =
      some { instr := .fromUint 3, src := { Operands.empty with int := 12 } } := by decide

theorem witness_encode_commands : (flying (.toBe 1) (two 11 0)).latch = some { instr := .toBe 1, src := two 11 0 } ∧
    (flying (.toLe 1) (two 11 0)).latch = some { instr := .toLe 1, src := two 11 0 } ∧
    Memory.wf (flying (.toLe 1) (two 11 0)).buf = true := by decide

theorem witness_round_trips : idle.cfg.fits = true ∧ idle.latch = none ∧ idle.feAt 1 < idle.cfg.P ∧
    Memory.wf idle.buf = true ∧ idle.bufLen.toNat = idle.cfg.nb ∧
    beInt (Memory.readBytes idle.buf idle.cfg.nb) < idle.cfg.P ∧
    leInt (Memory.readBytes idle.buf idle.cfg.nb) < idle.cfg.P := by decide

/-- A command at accept meets the frame statements' hypotheses: an idle block has no other command in flight. -/
theorem witness_frames_at_accept : (∀ l, idle.latch = some l → l.instr = .toBe 1) ∧
    (∃ t, exec (.toBe 1) idle = .next t) ∧ (∃ t, exec (.eq 0 1) idle = .next t) ∧ (∃ t, exec (.add 2 0 1) idle = .next t) ∧
    (∃ t, exec (.fromBe 0) idle = .next t) ∧ (∃ t, exec (.inv 1 0) idle = .next t) :=
  ⟨(by intro l h; cases h), ⟨_, rfl⟩, ⟨_, rfl⟩, ⟨_, rfl⟩, ⟨_, rfl⟩, ⟨_, rfl⟩⟩

/-- And so does a command in flight, at its turn. -/
theorem witness_frames_in_flight (i : Instr) (o : Operands) : (∀ l, (flying i o).latch = some l → l.instr = i) := by
  intro l h; cases h; rfl

theorem witness_frames_in_flight_answer : (∃ t, exec (.toLe 1) (flying (.toLe 1) (two 11 0)) = .next t) ∧
    (∃ t, exec (.lt 0 1) (flying (.lt 0 1) (two 6 11)) = .next t) ∧
    (∃ t, exec (.selr 4 0 1) (flying (.selr 4 0 1) (two 6 11)) = .next t) ∧
    (∃ t, exec (.rand 5) (flying (.rand 5) Operands.empty) = .next t) ∧
    (∃ t, exec (.inv 1 0) (flying (.inv 1 0) (two 6 0)) = .next t) :=
  ⟨⟨_, rfl⟩, ⟨_, rfl⟩, ⟨_, rfl⟩, ⟨_, rfl⟩, ⟨_, rfl⟩⟩

theorem witness_compares : idle.latch = none ∧
    (flying (.isZero 0) (two 6 0)).latch = some { instr := .isZero 0, src := two 6 0 } ∧
    (flying (.eq 0 1) (two 6 11)).latch = some { instr := .eq 0 1, src := two 6 11 } ∧
    (flying (.isOdd 0) (two 6 0)).latch = some { instr := .isOdd 0, src := two 6 0 } ∧
    (flying (.gt 0 1) (two 6 11)).latch = some { instr := .gt 0 1, src := two 6 11 } ∧
    (flying (.lt 0 1) (two 6 11)).latch = some { instr := .lt 0 1, src := two 6 11 } := by decide

/-- Two reduced representations, the greatest and the least, that are not equal. -/
theorem witness_values : idle.cfg.fits = true ∧ 12 < idle.cfg.P ∧ 0 < idle.cfg.P ∧ (12 : Nat) ≠ 0 ∧
    canon idle.cfg 11 = (idle.cfg.P + 1) / 2 := by decide

theorem witness_pseudo_instructions : idle.latch = none ∧ ({ idle with result := true } : State).latch = none := by decide

/-- A completing turn, an illegal word and a length error with `IE = 1`, and a block that is busy. -/
theorem witness_interrupt : idle.cfg.ok = true ∧ idle.rstN = true ∧ idle.latch = none ∧ decode 0x00000000 = none ∧
    decode 0x00000F02 = some (.fromLe 15) ∧ ({ idle with bufLen := 2 } : State).bufLen.toNat ≠ idle.cfg.nb ∧
    (flying (.neg 1 0) (two 6 0)).cfg.ok = true ∧ (flying (.neg 1 0) (two 6 0)).rstN = true ∧
    (flying (.neg 1 0) (two 6 0)).latch ≠ none ∧
    (landed (({ flying (.neg 1 0) (two 6 0) with ie := true } : State).stepOn .core)).latch = none ∧
    (landed (({ flying (.neg 1 0) (two 6 0) with ie := true } : State).stepOn .core)).irq = true := by decide

/-- The four ways `irq` falls: an accept, a write of `STATUS`, a write of `CTRL` and a reset. -/
theorem witness_interrupt_falls : ({ idle with done := true, ie := true } : State).irq = true ∧
    [idle.writeTo 0x018 0x00010218, idle.writeTo 0x014 0x00000002, idle.writeTo 0x010 0x00000000, .rstN false].map
      (fun e => (landed (({ idle with done := true, ie := true } : State).stepOn e)).irq) = List.replicate 4 false := by
  decide

theorem witness_selects : (flying (.seli 4 5 6 true) (two 6 11)).latch =
      some { instr := .seli 4 5 6 true, src := two 6 11 } ∧
    (flying (.selr 4 5 6) { two 6 11 with result := true }).latch =
      some { instr := .selr 4 5 6, src := { two 6 11 with result := true } } := by decide

theorem witness_double_and_square : (flying (.dbl 3 1) (two 11 0)).latch = some { instr := .dbl 3 1, src := two 11 0 } ∧
    (flying (.sqr 3 1) (two 11 0)).latch = some { instr := .sqr 3 1, src := two 11 0 } := by decide

/-- In flight, with the sources at 0 and at `P - 1`. -/
theorem witness_limb_engine : (flying (.add 2 0 1) (two 12 12)).latch = some { instr := .add 2 0 1, src := two 12 12 } ∧
    (flying (.sub 2 0 1) (two 0 12)).latch = some { instr := .sub 2 0 1, src := two 0 12 } ∧
    (flying (.mul 2 0 1) (two 12 12)).latch = some { instr := .mul 2 0 1, src := two 12 12 } ∧
    (flying (.neg 2 0) (two 12 0)).latch = some { instr := .neg 2 0, src := two 12 0 } ∧
    0 < idle.cfg.P ∧ (two 12 0).a < idle.cfg.P := by decide

/-- The state of V-I1 before its first divstep (a swap) and before its second (no swap). -/
theorem witness_divstep : Config.toy13.fits = true ∧ 1 < Config.toy13.divsteps ∧
    DivState.InRange Config.toy13 0 { d := 1, f := 13, g := 5, v := 0, r := 9 } ∧
    DivState.InRange Config.toy13 1 { d := 0, f := 5, g := -4, v := 5, r := 9 } ∧
    ((0 : Int) < 1 ∧ (5 : Int) % 2 = 1) ∧ ¬ ((0 : Int) < 0 ∧ (-4 : Int) % 2 = 1) := by
  simp only [DivState.InRange]; decide

/-- An inversion before its first iteration, before its second, and after its last. -/
theorem witness_inversion_turns : (flying (.inv 1 0) (two 6 0)).iter < idle.cfg.nIter ∧
    (flying (.inv 1 0) (two 6 0)).iter % 2 = 0 ∧
    ({ flying (.inv 1 0) (two 6 0) with iter := 1 } : State).iter % 2 = 1 ∧
    (inverted { d := 8, f := -1, g := 0, v := 9, r := 0 } (two 6 0)).iter = idle.cfg.nIter ∧
    (inverted { d := 8, f := -1, g := 0, v := 9, r := 0 } (two 6 0)).latch =
      some { instr := .inv 1 0, src := two 6 0 } := by decide

/-- The ends of the range of an 8-bit word. -/
theorem witness_sign_bit : 0 < 8 ∧ -(2 : Int) ^ (8 - 1) ≤ -128 ∧ (-128 : Int) < 2 ^ (8 - 1) ∧
    (127 : Int) < 2 ^ (8 - 1) ∧ signBit 8 (-128) = true ∧ signBit 8 127 = false := by decide

theorem witness_inversion_runs : idle.latch = none ∧ (State.resetOf Config.p384).latch = none := by decide

/-- A nonzero and a zero register of a valid configuration. -/
theorem witness_inversion : idle.cfg.Valid ∧ idle.latch = none ∧ idle.feAt 0 < idle.cfg.P ∧ idle.feAt 0 ≠ 0 ∧
    idle.feAt 2 = 0 := ⟨witness_toy13_valid, by decide, by decide, by decide, by decide⟩

theorem witness_final_divstep_state : Config.toy13.Valid ∧ 12 < Config.toy13.P ∧ (12 : Nat) ≠ 0 ∧ 0 < Config.toy13.P :=
  ⟨witness_toy13_valid, by decide, by decide, by decide⟩

/-- A sampling with a failure, with the greatest draw that is accepted and the least that is not. -/
theorem witness_sampling : (flying (.rand 5) Operands.empty).latch = some { instr := .rand 5, src := Operands.empty } ∧
    beInt [0x0C] < idle.cfg.P ∧ idle.cfg.P ≤ beInt [0x0D] ∧
    ({ flying (.rand 5) Operands.empty with draw := some (.bytes [0x0D]) } : State).draw = some (.bytes [0x0D]) ∧
    ({ flying (.rand 5) Operands.empty with draw := some .fail } : State).draw = some .fail := by decide

/-- A request outstanding and none; an answer of `NB` bytes and one of another length. -/
theorem witness_answers : ({ flying (.rand 5) Operands.empty with rngReq := true } : State).rngReq = true ∧
    idle.rngReq = false ∧ [(0x07 : Byte)].length = idle.cfg.nb ∧ ([] : List Byte).length ≠ idle.cfg.nb ∧
    idle.cfg.ok = true ∧ idle.rstN = true ∧
    (flying (.rand 5) Operands.empty).latch = some { instr := .rand 5, src := Operands.empty } ∧
    (flying (.rand 5) Operands.empty).draw = none := by decide

/-- The start of an inversion of value 5, in flight: a state that meets every invariant and takes a step. -/
def inverting : State :=
  { flying (.inv 1 0) (two 6 0) with setA := divInit Config.toy13 5 }

theorem witness_registers_reduced : inverting.Reduced ∧ ∃ t, step inverting = .next t :=
  ⟨⟨by decide, (by intro l h; cases h; decide)⟩, ⟨_, rfl⟩⟩

theorem witness_buffers_canonical : inverting.Canonical ∧ ∃ t, step inverting = .next t :=
  ⟨⟨⟨by decide, by decide⟩, by decide, (by intro l h; cases h; exact ⟨⟨by decide, by decide⟩, by decide⟩)⟩, ⟨_, rfl⟩⟩

theorem witness_datapath_in_range : inverting.DatapathInRange ∧ ∃ t, step inverting = .next t := by
  refine ⟨?_, ⟨_, rfl⟩⟩
  intro rd rs1 o _
  simp only [DivState.InRange]
  decide +kernel

/-- A sampling with its request outstanding. -/
theorem witness_sampler_consistent :
    ({ flying (.rand 5) Operands.empty with rngReq := true } : State).SamplerConsistent ∧
    ∃ t, step { flying (.rand 5) Operands.empty with rngReq := true } = .next t :=
  ⟨⟨fun _ => ⟨rfl, 5, Operands.empty, rfl⟩, fun h => by cases h⟩, ⟨_, rfl⟩⟩

/-- Steps that change `VALID`: a completion, a length error and a soft reset. -/
theorem witness_valid_writers :
    (landed (step (flying (.fromUint 3) { Operands.empty with int := 12 }))).valid ≠
      (flying (.fromUint 3) { Operands.empty with int := 12 }).valid ∧
    (landed (({ idle with valid := true, bufLen := 0 } : State).stepOn (idle.writeTo 0x018 0x00000001))).valid = false ∧
    (landed (({ idle with valid := true } : State).stepOn (idle.writeTo 0x010 0x00000001))).valid = false := by decide

/-- Steps that change `RESULT`: a compare and a hard reset. -/
theorem witness_result_writers : (landed (step (flying (.isZero 2) (two 0 0)))).result ≠ (flying (.isZero 2) (two 0 0)).result ∧
    (landed (({ idle with result := true } : State).stepOn (.rstN false))).result = false := by decide

/-- Steps that keep an error bit and that clear it. -/
theorem witness_error_bits : (landed (step { idle with errLen := true })).errLen = true ∧
    (landed (({ idle with errLen := true } : State).stepOn (idle.writeTo 0x014 0x00000100))).errLen = true ∧
    (landed (({ idle with errLen := true } : State).stepOn (idle.writeTo 0x014 0x00000200))).errLen = false := by decide

/-- Steps for the clauses about `BUSY` and `DONE`: accept, completion, a failed command, and a write of `STATUS`. -/
theorem witness_busy_and_done :
    (landed (({ idle with done := true } : State).stepOn (idle.writeTo 0x018 0x00010218))).done = false ∧
    (landed (step (flying (.add 2 0 1) (two 6 11)))).done = true ∧
    (landed (idle.stepOn (idle.writeTo 0x018 0x00000000))).done = true ∧
    (landed (({ idle with done := true } : State).stepOn (idle.writeTo 0x014 0x00000002))).done = false := by decide

theorem witness_configuration_never_changes : ∃ t, step inverting = .next t := ⟨_, rfl⟩

/-- A configuration that is valid, and one that is not and is not `P384`'s field. -/
theorem witness_only_valid_configurations : State.reset.cfg.Valid ∧
    ¬ (State.resetOf { Config.toy13 with P := 9 }).cfg.Valid ∧
    (State.resetOf { Config.toy13 with P := 9 }).cfg.sameField Config.p384 = false :=
  ⟨witness_toy13_valid, fun h => absurd h.2.1 (show ¬ Nat.Prime 9 by norm_num), by decide +kernel⟩

/-- Two states that differ in secrets alone, and run no `RAND` in the one step they take. -/
theorem witness_timing : idle.publicView = ({ idle with fe := Vector.replicate 16 3, int := 7, valid := true } : State).publicView ∧
    idle ≠ { idle with fe := Vector.replicate 16 3, int := 7, valid := true } ∧
    (∀ j u, j < 1 → runSteps j idle = .next u → ¬ u.sampling) := by
  refine ⟨by decide, by decide, ?_⟩
  intro j u hj hu
  obtain rfl : j = 0 := by omega
  cases hu
  rintro ⟨rd, o, h⟩
  cases h

end Sys2Proof.Tests
end

section
/-! PROOFS. The scope chapter (spec/00_scope.md): the byte conversions as sums, the Montgomery transforms as inverse
bijections, the constants a configuration fixes, and the check `step` makes of a configuration. -/

namespace Sys2Proof.Machine

/-! ## The byte conversions (R14) -/

/-- The bytes appended above a sequence weigh `256` to its length. -/
theorem leInt_append (as bs : List Byte) : leInt (as ++ bs) = leInt as + 256 ^ as.length * leInt bs := by
  induction as with
  | nil => simp [leInt]
  | cons a as ih =>
    simp only [List.cons_append, leInt, ih, List.length_cons, pow_succ]
    ring

/-- The first byte of a big-endian sequence is its most significant one. -/
theorem beInt_cons (b : Byte) (bs : List Byte) : beInt (b :: bs) = b.toNat * 256 ^ bs.length + beInt bs := by
  simp only [beInt, List.reverse_cons, leInt_append, List.length_reverse, leInt]
  ring

theorem leInt_eq_sum (bs : List Byte) : leInt bs = ∑ j : Fin bs.length, (bs.get j).toNat * 256 ^ j.val := by
  induction bs with
  | nil => rfl
  | cons b bs ih =>
    calc leInt (b :: bs) = b.toNat * 256 ^ 0 + ∑ j : Fin bs.length, (bs.get j).toNat * 256 ^ (j.val + 1) := by
          simp only [leInt, ih, Finset.mul_sum, pow_succ, pow_zero, mul_one]
          congr 1
          exact Finset.sum_congr rfl fun j _ => by ring
      _ = _ := (Fin.sum_univ_succ fun j : Fin (bs.length + 1) => ((b :: bs).get j).toNat * 256 ^ j.val).symm

theorem beInt_eq_sum (bs : List Byte) :
    beInt bs = ∑ j : Fin bs.length, (bs.get j).toNat * 256 ^ (bs.length - 1 - j.val) := by
  induction bs with
  | nil => rfl
  | cons b bs ih =>
    have hexp (j : Fin bs.length) : bs.length - 1 - j.val = bs.length - (j.val + 1) := by omega
    calc beInt (b :: bs)
        = b.toNat * 256 ^ bs.length + ∑ j : Fin bs.length, (bs.get j).toNat * 256 ^ (bs.length - (j.val + 1)) := by
          rw [beInt_cons, ih]
          simp only [hexp]
      _ = _ := (Fin.sum_univ_succ fun j : Fin (bs.length + 1) =>
          ((b :: bs).get j).toNat * 256 ^ (bs.length - j.val)).symm

theorem eq_leBytes_iff {n x : Nat} (hx : x < 256 ^ n) (bs : List Byte) :
    bs.length = n ∧ leInt bs = x ↔ bs = leBytes n x := by
  constructor
  · rintro ⟨rfl, rfl⟩
    exact (leBytes_leInt bs).symm
  · rintro rfl
    exact ⟨leBytes_length n x, leInt_leBytes n x hx⟩

theorem eq_beBytes_iff {n x : Nat} (hx : x < 256 ^ n) (bs : List Byte) :
    bs.length = n ∧ beInt bs = x ↔ bs = beBytes n x := by
  constructor
  · rintro ⟨rfl, rfl⟩
    exact (beBytes_beInt bs).symm
  · rintro rfl
    exact ⟨beBytes_length n x, beInt_beBytes hx⟩

/-- Settles O23: each conversion by induction on the bytes, the other way round by the round trips of Laws/Codec. -/
theorem byteConversionsAreTheSums : Obligations.ByteConversionsAreTheSums :=
  ⟨fun bs => ⟨leInt_eq_sum bs, beInt_eq_sum bs⟩, fun _ _ hx bs => ⟨eq_leBytes_iff hx bs, eq_beBytes_iff hx bs⟩⟩

/-! ## The Montgomery transforms (R13) -/

/-- Into Montgomery form and back. -/
theorem canon_mont {c : Config} (h : c.fits = true) {x : Nat} (hx : x < c.P) : canon c (mont c x) = x := by
  have hmod : mont c x * c.rinv ≡ x [MOD c.P] := by
    calc mont c x * c.rinv ≡ x * c.radix * c.rinv [MOD c.P] := (mont_modEq c x).mul_right _
      _ = x * (c.rinv * c.radix) := by ring
      _ ≡ x * 1 [MOD c.P] := (Config.rinv_modEq (Config.fits_odd h)).mul_left _
      _ = x := mul_one x
  exact ((canon_modEq c _).trans hmod).eq_of_lt_of_lt (canon_lt (Config.fits_pos h) _) hx

/-- Out of Montgomery form and back. -/
theorem mont_canon {c : Config} (h : c.fits = true) {m : Nat} (hm : m < c.P) : mont c (canon c m) = m :=
  ((mont_modEq c _).trans (canon_radix (Config.fits_odd h) m)).eq_of_lt_of_lt (mont_lt (Config.fits_pos h) _) hm

/-- Settles O24: `RINV` undoes `R` modulo `P`, and residues below `P` are equal when they are congruent. -/
theorem montgomeryTransformsAreInverse : Obligations.MontgomeryTransformsAreInverse := by
  intro c h
  have hP := Config.fits_pos h
  exact ⟨fun x => ⟨rfl, rfl⟩, fun x hx => ⟨mont_lt hP x, canon_lt hP x, canon_mont h hx, mont_canon h hx⟩⟩

/-! ## Divsteps after convergence (R87) -/

/-- Several divsteps are iterates of one. -/
theorem divstepIter_eq_iterate (c : Config) (k : Nat) (x : DivState) :
    divstepIter c k x = (divstep c)^[k] x := by
  induction k generalizing x with
  | zero => rfl
  | succ k ih => exact ih (divstep c x)

/-- Once `g` is 0, a divstep keeps `g` and `f`. -/
theorem divstep_of_g_zero (c : Config) {x : DivState} (hg : x.g = 0) :
    (divstep c x).g = 0 ∧ (divstep c x).f = x.f := by
  simp [divstep, hg, narrow]

/-- Once `g` is 0, any number of divsteps keeps `g` and `f`. -/
theorem divstepIter_of_g_zero (c : Config) (k : Nat) {x : DivState} (hg : x.g = 0) :
    (divstepIter c k x).g = 0 ∧ (divstepIter c k x).f = x.f := by
  induction k with
  | zero => exact ⟨hg, rfl⟩
  | succ k ih =>
    obtain ⟨hgk, hfk⟩ := ih
    obtain ⟨hg', hf'⟩ := divstep_of_g_zero c hgk
    rw [divstepIter_succ]
    exact ⟨hg', hf'.trans hfk⟩

end Sys2Proof.Machine

namespace Sys2Proof

/-! ## The constants of a configuration (R8) -/

theorem Config.rinv_lt {c : Config} (h : 0 < c.P) : c.rinv < c.P := Config.halfPow_lt h _

theorem Config.precomp_lt {c : Config} (h : 0 < c.P) : c.precomp < c.P := Nat.mod_lt _ h

/-- `PRECOMP` is `2^(-T) * R` modulo `P` (R86). -/
theorem Config.precomp_modEq {c : Config} (h : c.P % 2 = 1) : c.precomp * 2 ^ c.divsteps ≡ c.radix [MOD c.P] := by
  calc c.precomp * 2 ^ c.divsteps ≡ c.halfPow c.divsteps * c.radix * 2 ^ c.divsteps [MOD c.P] :=
        (Nat.mod_modEq _ _).mul_right _
    _ = c.halfPow c.divsteps * 2 ^ c.divsteps * c.radix := by ring
    _ ≡ 1 * c.radix [MOD c.P] := (Config.halfPow_modEq h _).mul_right _
    _ = c.radix := one_mul _

/-- Settles O40: the laws of `halfPow` for every fitting configuration, and evaluation for the two examples. -/
theorem constantsOfTheConfiguration : Obligations.ConstantsOfTheConfiguration := by
  refine ⟨fun c h => ?_, by decide, by decide +kernel⟩
  have hP := Config.fits_pos h
  have hodd := Config.fits_odd h
  have hone : 1 % c.P = 1 := Nat.mod_eq_of_lt (by have := Config.fits_three h; omega)
  exact ⟨Eq.trans (Config.rinv_modEq hodd) hone, Config.rinv_lt hP, rfl, rfl, Config.precomp_modEq hodd,
    Config.precomp_lt hP⟩

/-! ## The check of a configuration (R7) -/

/-- Convergence in at most `T` divsteps is convergence after exactly `T`. -/
theorem Config.converges_iff (c : Config) : c.Converges ↔ ∀ a, 1 ≤ a → a < c.P →
    (Machine.divstepIter c c.divsteps (Machine.divInit c a)).g = 0 ∧
    (Machine.divstepIter c c.divsteps (Machine.divInit c a)).f.natAbs = 1 := by
  refine forall₃_congr fun a _ _ => ⟨?_, fun hT => ⟨c.divsteps, le_rfl, hT⟩⟩
  rintro ⟨k, hk, hg, hf⟩
  have hsplit : Machine.divstepIter c c.divsteps (Machine.divInit c a) =
      Machine.divstepIter c (c.divsteps - k) (Machine.divstepIter c k (Machine.divInit c a)) := by
    simp only [Machine.divstepIter_eq_iterate]
    rw [← Function.iterate_add_apply, Nat.sub_add_cancel hk]
  obtain ⟨hgT, hfT⟩ := Machine.divstepIter_of_g_zero c (c.divsteps - k) hg
  rw [hsplit, hfT]
  exact ⟨hgT, hf⟩

/-- The exhaustive convergence check decides R98. -/
theorem Config.convergenceCheck_iff (c : Config) : c.convergenceCheck = true ↔ c.Converges := by
  simp only [Config.converges_iff, Config.convergenceCheck, List.all_eq_true, List.mem_range, Bool.or_eq_true,
    Bool.and_eq_true, decide_eq_true_eq]
  refine forall_congr' fun a => ⟨fun h h1 hP => (h hP).resolve_left (by omega), fun h hP => ?_⟩
  rcases Nat.eq_zero_or_pos a with h0 | h1
  · exact .inl h0
  · exact .inr (h h1 hP)

/-- Trial division decides primality of a modulus that is at least 2. -/
theorem Config.primeCheck_iff {c : Config} (h : 2 ≤ c.P) : c.primeCheck = true ↔ Nat.Prime c.P := by
  simp only [Config.primeCheck, Nat.prime_def_lt', List.all_eq_true, List.mem_range, Bool.or_eq_true, decide_eq_true_eq,
    Nat.dvd_iff_mod_eq_zero, h, true_and]
  exact forall_congr' fun k => ⟨fun hk h2 hP => (hk hP).resolve_left (by omega),
    fun hk hP => (Nat.lt_or_ge k 2).imp_right fun h2 => hk h2 hP⟩

/-- A configuration is valid exactly when it fits and passes both exhaustive checks. -/
theorem Config.valid_iff_checks (c : Config) :
    c.Valid ↔ c.fits = true ∧ c.primeCheck = true ∧ c.convergenceCheck = true := by
  refine and_congr_right fun h => ?_
  rw [Config.primeCheck_iff (by have := Config.fits_three h; omega), Config.convergenceCheck_iff]

/-- The bus address plays no part in the validity of a configuration. -/
theorem Config.valid_base (c : Config) (b : Nat) : { c with base := b }.Valid ↔ c.Valid := by
  have hiter (k : Nat) (x : Machine.DivState) :
      Machine.divstepIter { c with base := b } k x = Machine.divstepIter c k x := by
    simp only [Machine.divstepIter_eq_iterate]
    rfl
  simp only [Config.Valid, Config.Converges, hiter]
  rfl

/-- `TOY13` passes the checks that `Config.ok` takes as passed for it. -/
theorem Config.toy13_valid : Config.toy13.Valid := (Config.valid_iff_checks _).2 (by decide +kernel)

/-- A configuration of `TOY13`'s field in its limbs is valid at whatever bus address. -/
theorem Config.valid_of_sameField_toy13 {c : Config} (h : c.sameField Config.toy13 = true) : c.Valid := by
  simp only [Config.sameField, Bool.and_eq_true, decide_eq_true_eq] at h
  obtain ⟨⟨hP, hW⟩, hl⟩ := h
  obtain ⟨P, W, limbBits, base⟩ := c
  subst hP hW hl
  exact (Config.valid_base Config.toy13 base).2 Config.toy13_valid

/-- A valid configuration passes the check `step` makes. -/
theorem Config.ok_of_valid {c : Config} (h : c.Valid) : c.ok = true := by
  obtain ⟨hfits, hprime, hconv⟩ := (Config.valid_iff_checks c).1 h
  simp [Config.ok, hfits, hprime, hconv]

/-- What passes the check is valid, unless it is `P384`'s field, which the check takes as valid (log 3). -/
theorem Config.valid_of_ok {c : Config} (h : c.ok = true) (h384 : c.sameField Config.p384 = false) : c.Valid := by
  simp only [Config.ok, Config.example384or13, h384, Bool.or_false, Bool.and_eq_true, Bool.or_eq_true] at h
  obtain ⟨hfits, htoy | hchecks⟩ := h
  · exact Config.valid_of_sameField_toy13 htoy
  · exact (Config.valid_iff_checks c).2 ⟨hfits, hchecks⟩

/-- Settles O58: outside `P384`'s field the check `step` makes decides validity. -/
theorem onlyValidConfigurationsStep : Obligations.OnlyValidConfigurationsStep :=
  ⟨fun _ h => if_pos (Config.ok_of_valid h), fun _ h h384 => if_neg fun hok => h (Config.valid_of_ok hok h384)⟩

end Sys2Proof
end

section
/-! PROOFS. The state chapter (spec/10_state.md): what a start and a turn of a command can change, the ranges every step
keeps, the only writers of the flags, and the identification registers. -/

namespace Sys2Proof.Machine

/-! ## What starting a command can do -/

/-- Every source in `o` is 0 or what `s` holds: what a command can have read at accept (R16). -/
structure Operands.ReadFrom (s : State) (o : Operands) : Prop where
  a : o.a = 0 ∨ ∃ r, o.a = s.feAt r
  b : o.b = 0 ∨ ∃ r, o.b = s.feAt r
  buf : o.buf = [] ∨ o.buf = s.buf
  int : o.int = 0 ∨ o.int = s.int

theorem Operands.readFrom_empty (s : State) : Operands.empty.ReadFrom s := ⟨.inl rfl, .inl rfl, .inl rfl, .inl rfl⟩

theorem srcOne_readFrom (r : FReg) (s : State) : (srcOne r s).ReadFrom s :=
  ⟨.inr ⟨r, rfl⟩, .inl rfl, .inl rfl, .inl rfl⟩

theorem srcTwo_readFrom (r q : FReg) (s : State) : (srcTwo r q s).ReadFrom s :=
  ⟨.inr ⟨r, rfl⟩, .inr ⟨q, rfl⟩, .inl rfl, .inl rfl⟩

theorem srcTwoResult_readFrom (r q : FReg) (s : State) : (srcTwoResult r q s).ReadFrom s :=
  ⟨.inr ⟨r, rfl⟩, .inr ⟨q, rfl⟩, .inl rfl, .inl rfl⟩

theorem srcBuf_readFrom (s : State) : (srcBuf s).ReadFrom s := ⟨.inl rfl, .inl rfl, .inr rfl, .inl rfl⟩

theorem srcInt_readFrom (s : State) : (srcInt s).ReadFrom s := ⟨.inl rfl, .inl rfl, .inl rfl, .inr rfl⟩

/-- What an idle core can do with command `i`. -/
inductive StartCase (i : Instr) (s : State) : State → Prop
  /-- The length check fails (R109). -/
  | lengthError (hn : s.bufLen.toNat ≠ s.cfg.nb) : StartCase i s s.lengthError
  /-- The command is accepted; the hidden state of the inversion engine and the sampler may be initialised. -/
  | accept (o : Operands) (ho : o.ReadFrom s) (x : DivState) (n : Nat) (d : Option RngAnswer) (q : Bool) :
      StartCase i s { s.accept i o with setA := x, iter := n, draw := d, rngReq := q }

/-- The start of a decode command. -/
theorem startCase_decode (i : Instr) (s : State) :
    StartCase i s (if s.bufLen.toNat = s.cfg.nb then s.accept i (srcBuf s) else s.lengthError) := by
  split
  · exact .accept _ (srcBuf_readFrom s) s.setA s.iter s.draw s.rngReq
  · next hn => exact .lengthError hn

theorem startOf_cases (i : Instr) (s : State) : StartCase i s (startOf i s) := by
  have plain {o : Operands} (ho : o.ReadFrom s) : StartCase i s (s.accept i o) :=
    .accept o ho s.setA s.iter s.draw s.rngReq
  cases i with
  | fromBe | fromLe => exact startCase_decode _ s
  | fromUint => exact plain (srcInt_readFrom s)
  | toBe r | toLe r | isZero r | isOdd r | dbl _ r | sqr _ r | neg _ r => exact plain (srcOne_readFrom r s)
  | eq r q | gt r q | lt r q | seli _ r q | add _ r q | sub _ r q | mul _ r q => exact plain (srcTwo_readFrom r q s)
  | selr _ r q => exact plain (srcTwoResult_readFrom r q s)
  | inv rd r => exact .accept _ (srcOne_readFrom r s) _ _ s.draw s.rngReq
  | rand => exact .accept _ (Operands.readFrom_empty s) s.setA s.iter _ _

theorem StartCase.cfg {i : Instr} {s t : State} (hc : StartCase i s t) : t.cfg = s.cfg := by cases hc <;> rfl

theorem StartCase.result {i : Instr} {s t : State} (hc : StartCase i s t) : t.result = s.result := by
  cases hc <;> rfl

/-- Only a length error changes `VALID` at the start of a command (R109). -/
theorem StartCase.lengthError_of_valid_ne {i : Instr} {s t : State} (hc : StartCase i s t) (h : t.valid ≠ s.valid) :
    s.bufLen.toNat ≠ s.cfg.nb ∧ t = s.lengthError := by
  cases hc with
  | lengthError hn => exact ⟨hn, rfl⟩
  | accept => exact absurd rfl h

/-- What is in the latch after the start of a command on an idle core is that command. -/
theorem StartCase.instr_of_latch {i : Instr} {s t : State} {l : Latch} (hc : StartCase i s t) (hs : s.latch = none)
    (hl : t.latch = some l) : l.instr = i := by
  cases hc with
  | lengthError => exact nomatch hs.symm.trans hl
  | accept => cases hl; rfl

/-! ## What a turn of a command can do -/

/-- What a turn of the command in flight can do to the state `s`. -/
inductive TurnCase (s : State) : State → Prop
  /-- The command goes on: only the hidden state of the inversion engine and the sampler may move. -/
  | goesOn (x y : DivState) (n : Nat) (d : Option RngAnswer) (q : Bool) :
      TurnCase s { s with setA := x, setB := y, iter := n, draw := d, rngReq := q }
  /-- The command completes, with its writes (R112): of `BUF` all `NB` bytes or none, and `ERR_RNG` never to 0. -/
  | completes (fe : Vector Nat 16) (buf : Memory) (n : BitVec 16) (v r e : Bool) (d : Option RngAnswer)
      (hbuf : buf = s.buf ∨ ∃ bs : List Byte, bs.length = s.cfg.nb ∧ buf = Memory.writeBytes s.buf 0 bs)
      (he : s.errRng = true → e = true) :
      TurnCase s (State.complete
        { s with fe := fe, buf := buf, bufLen := n, valid := v, result := r, errRng := e, draw := d })

/-- A turn of an inversion is an iteration or the end (R93). -/
theorem turnInversion_cases (rd : FReg) (o : Operands) (s : State) :
    (s.iter < s.cfg.nIter ∧ turnInversion rd o s = iterate s) ∨ turnInversion rd o s = finishInversion rd o s := by
  unfold turnInversion
  split
  · next h => exact .inl ⟨h, rfl⟩
  · exact .inr rfl

/-- A turn of a sampling waits, fails, accepts the draw or asks for another one (R101, R102). -/
theorem turnSampling_cases (rd : FReg) (s : State) :
    turnSampling rd s = s ∨
    turnSampling rd s = ((({ s with draw := none } : State).raise .rng).setValid false).complete ∨
    (∃ x, turnSampling rd s = ((({ s with draw := none } : State).setFE rd (mont s.cfg x)).setValid true).complete) ∨
    turnSampling rd s = s.request := by
  unfold turnSampling
  split
  · exact .inl rfl
  · exact .inr (.inl rfl)
  split
  · exact .inr (.inr (.inl ⟨_, rfl⟩))
  · exact .inr (.inr (.inr rfl))

/-- An iteration moves the datapath only. -/
theorem turnCase_iterate (s : State) : TurnCase s (iterate s) := by
  unfold iterate
  split <;> exact .goesOn _ _ _ s.draw s.rngReq

theorem turnOf_cases (i : Instr) (o : Operands) (s : State) : TurnCase s (turnOf i o s) := by
  cases i with
  | toBe => exact .completes _ _ _ _ _ _ _ (.inr ⟨_, beBytes_length _ _, rfl⟩) id
  | toLe => exact .completes _ _ _ _ _ _ _ (.inr ⟨_, leBytes_length _ _, rfl⟩) id
  | inv rd rs1 =>
    rcases turnInversion_cases rd o s with ⟨-, h⟩ | h <;> rw [turnOf, h]
    · exact turnCase_iterate s
    · exact .completes _ _ _ _ _ _ _ (.inl rfl) id
  | rand rd =>
    rcases turnSampling_cases rd s with h | h | ⟨x, h⟩ | h <;> rw [turnOf, h]
    · exact .goesOn s.setA s.setB s.iter s.draw s.rngReq
    · exact .completes _ _ _ _ _ _ _ (.inl rfl) fun _ => rfl
    · exact .completes _ _ _ _ _ _ _ (.inl rfl) id
    · exact .goesOn s.setA s.setB s.iter _ _
  | _ => exact .completes _ _ _ _ _ _ _ (.inl rfl) id

/-- A command in flight goes on with `DONE` as it was, or ends and sets it (R25). -/
theorem TurnCase.busyDone {s t : State} (hc : TurnCase s t) :
    (t.latch = s.latch ∧ t.done = s.done) ∨ (t.latch = none ∧ t.done = true) := by
  cases hc with
  | goesOn => exact .inl ⟨rfl, rfl⟩
  | completes => exact .inr ⟨rfl, rfl⟩

/-- A command found in the latch after a turn was there before it. -/
theorem TurnCase.latch_of_some {s t : State} {l : Latch} (hc : TurnCase s t) (hl : t.latch = some l) :
    s.latch = some l := by
  rcases hc.busyDone with ⟨h, -⟩ | ⟨h, -⟩
  · rw [← h, hl]
  · rw [h] at hl; cases hl

theorem TurnCase.cfg {s t : State} (hc : TurnCase s t) : t.cfg = s.cfg := by cases hc <;> rfl

/-! ## The configuration (R32) -/

/-- Settles O57: no case of a step writes the configuration. -/
theorem configurationNeverChanges : Obligations.ConfigurationNeverChanges := by
  intro s t h
  obtain ⟨-, hc⟩ := step_cases h
  cases hc with
  | start i => exact (startOf_cases i _).cfg
  | turn i o => exact (turnOf_cases i o _).cfg
  | _ => rfl

/-! ## The registers (R18) -/

/-- Writing a reduced value keeps the registers reduced. -/
theorem feAt_setFE_lt {s : State} {p v : Nat} (h : ∀ r, s.feAt r < p) (rd : FReg) (hv : v < p) (r : FReg) :
    (s.setFE rd v).feAt r < p := by
  rw [feAt_setFE]
  split
  · exact hv
  · exact h r

/-- After reset the registers hold 0 (R121). -/
theorem resetOf_reduced {c : Config} (hP : 0 < c.P) : (State.resetOf c).Reduced :=
  ⟨fun i => by rw [feAt_resetOf]; exact hP, fun _ hl => nomatch hl⟩

theorem StartCase.reduced {i : Instr} {s t : State} (hc : StartCase i s t) (hP : 0 < s.cfg.P) (h : s.Reduced) :
    t.Reduced := by
  have ⟨hfe, _⟩ := h
  have lt {x : Nat} (hx : x = 0 ∨ ∃ r, x = s.feAt r) : x < s.cfg.P := by
    rcases hx with rfl | ⟨r, rfl⟩
    · exact hP
    · exact hfe r
  cases hc with
  | lengthError => exact h
  | accept o ho => exact ⟨hfe, fun l hl => by cases hl; exact ⟨lt ho.a, lt ho.b⟩⟩

/-- What a turn writes to a register is a residue, or one of the command's own sources. -/
theorem turnOf_feAt_lt (i : Instr) {o : Operands} {s : State} (hP : 0 < s.cfg.P) (h : ∀ r, s.feAt r < s.cfg.P)
    (ha : o.a < s.cfg.P) (hb : o.b < s.cfg.P) (r : FReg) : (turnOf i o s).feAt r < s.cfg.P := by
  cases i with
  | toBe | toLe | isZero | eq | isOdd | gt | lt => exact h r
  | fromBe rd | fromLe rd | fromUint rd => exact feAt_setFE_lt h rd (ctSelect_lt _ hP (mont_lt hP _)) r
  | seli rd | selr rd => exact feAt_setFE_lt h rd (ctSelect_lt _ ha hb) r
  | dbl rd | add rd => exact feAt_setFE_lt h rd (engAdd_lt hP _ _) r
  | sqr rd => exact feAt_setFE_lt h rd (engSquare_lt hP _) r
  | sub rd => exact feAt_setFE_lt h rd (engSub_lt hP _ _) r
  | mul rd => exact feAt_setFE_lt h rd (engMul_lt hP _ _) r
  | neg rd => exact feAt_setFE_lt h rd (engNeg_lt hP _) r
  | inv rd =>
    rcases turnInversion_cases rd o s with ⟨-, e⟩ | e <;> rw [turnOf, e]
    · rw [feAt_iterate]; exact h r
    · exact feAt_setFE_lt h rd (divResult_lt hP _) r
  | rand rd =>
    rcases turnSampling_cases rd s with e | e | ⟨x, e⟩ | e <;> rw [turnOf, e]
    · exact h r
    · exact h r
    · exact feAt_setFE_lt (s := { s with draw := none }) h rd (mont_lt hP x) r
    · exact h r

/-- Settles O49: a start latches registers of the state before, and a turn writes residues. -/
theorem registersStayReduced : Obligations.RegistersStayReduced := by
  intro s t h hstep
  obtain ⟨hok, hc⟩ := step_cases hstep
  have hP := Config.fits_pos (Config.ok_fits hok)
  have ⟨hfe, hlatch⟩ := h
  cases hc with
  | start i => exact (startOf_cases i _).reduced hP h
  | turn i o hl =>
    obtain ⟨ha, hb⟩ := hlatch _ hl
    have hturn := turnOf_cases i o { s with events := s.events.tail }
    refine ⟨fun r => ?_, fun l hl' => ?_⟩ <;> rw [hturn.cfg]
    · exact turnOf_feAt_lt i (s := { s with events := s.events.tail }) hP hfe ha hb r
    · exact hlatch l (hturn.latch_of_some hl')
  | softReset | hold => exact resetOf_reduced hP
  | _ => exact h

/-! ## The buffers (R19, R21) -/

theorem Memory.Good.nil (c : Config) : Memory.Good c [] := ⟨rfl, rfl⟩

/-- A write inside the `NB` bytes keeps the form. -/
theorem Memory.Good.write {c : Config} {m : Memory} {a : Nat} (h : Memory.Good c m) (b : Byte) (ha : a < c.nb) :
    Memory.Good c (Memory.write m a b) := ⟨Memory.wf_write h.1 a b, Memory.below_write b h.2 ha⟩

/-- A run of `NB` bytes from index 0 keeps the form. -/
theorem Memory.Good.writeBytes {c : Config} {m : Memory} {bs : List Byte} (h : Memory.Good c m)
    (hn : bs.length = c.nb) : Memory.Good c (Memory.writeBytes m 0 bs) :=
  ⟨Memory.wf_writeBytes bs 0 h.1, Memory.below_writeBytes bs h.2 (by omega)⟩

theorem Memory.Good.writeLane {s : State} (h : Memory.Good s.cfg s.buf) (j : Nat) (b : Byte) :
    Memory.Good (s.writeLane j b).cfg (s.writeLane j b).buf := by
  unfold State.writeLane
  split
  · next hj => exact h.write b hj
  · exact h

/-- A write of a word of the buffer window keeps the form, lane by lane (R37). -/
theorem Memory.Good.writeBufWord {s : State} (h : Memory.Good s.cfg s.buf) (k : Nat) (v : Word) :
    Memory.Good s.cfg (s.writeBufWord k v).buf := by
  have hw := (((h.writeLane (4 * k) (v.extractLsb' 0 8)).writeLane (4 * k + 1) (v.extractLsb' 8 8)).writeLane
    (4 * k + 2) (v.extractLsb' 16 8)).writeLane (4 * k + 3) (v.extractLsb' 24 8)
  have hcfg : (s.writeBufWord k v).cfg = s.cfg := by rw [writeBufWord_eq]
  exact hcfg ▸ hw

/-- After reset the buffers hold 0 (R121). -/
theorem resetOf_canonical (c : Config) : (State.resetOf c).Canonical :=
  ⟨Memory.Good.nil c, Nat.two_pow_pos _, fun _ hl => nomatch hl⟩

theorem StartCase.canonical {i : Instr} {s t : State} (hc : StartCase i s t) (h : s.Canonical) : t.Canonical := by
  have ⟨hbuf, hint, _⟩ := h
  cases hc with
  | lengthError => exact h
  | accept o ho =>
    refine ⟨hbuf, hint, fun _ hl => ?_⟩
    cases hl
    constructor
    · rcases ho.buf with e | e <;> rw [e]
      · exact Memory.Good.nil _
      · exact hbuf
    · rcases ho.int with e | e <;> rw [e]
      · exact Nat.two_pow_pos _
      · exact hint

theorem TurnCase.canonical {s t : State} (hc : TurnCase s t) (h : s.Canonical) : t.Canonical := by
  have ⟨hgood, hint, _⟩ := h
  cases hc with
  | goesOn => exact h
  | completes fe buf n v r e d hbuf =>
    refine ⟨?_, hint, fun _ hl => nomatch hl⟩
    rcases hbuf with rfl | ⟨bs, hlen, rfl⟩
    · exact hgood
    · exact hgood.writeBytes hlen

/-- Settles O50: every write of `BUF` stays inside its `NB` bytes, and every write of `INT` is cut to its width. -/
theorem buffersStayCanonical : Obligations.BuffersStayCanonical := by
  intro s t h hstep
  obtain ⟨-, hc⟩ := step_cases hstep
  have ⟨hbuf, hint, hlatch⟩ := h
  cases hc with
  | start i => exact (startOf_cases i _).canonical h
  | turn i o => exact (turnOf_cases i o _).canonical h
  | bufWord k v => exact ⟨hbuf.writeBufWord (s := { s with events := s.events.tail }) k v, hint, hlatch⟩
  | intWord j v => exact ⟨hbuf, replaceWord_lt _ _ _ _, hlatch⟩
  | softReset | hold => exact resetOf_canonical s.cfg
  | _ => exact h

/-! ## The datapath of an inversion (R29, R89) -/

/-- The divstep counter `d` stays in its limb through all `T` divsteps (R7). -/
theorem narrow_counter {c : Config} {i : Nat} {x : Int} (hc : c.fits = true) (hi : i < c.divsteps)
    (h1 : -((i : Int) + 1) ≤ x) (h2 : x ≤ (i : Int) + 2) : narrow c.limbBits x = x := by
  have hw : 0 < c.limbBits := by have := Config.fits_limbBits hc; omega
  have hcount : (c.divsteps : Int) + 2 ≤ (2 : Int) ^ (c.limbBits - 1) := by
    have := Config.fits_counter hc
    exact_mod_cast show c.divsteps + 2 ≤ 2 ^ (c.limbBits - 1) by omega
  exact narrow_eq hw (by omega) (by omega)

/-- An integer no larger than `P` fits in an extended limb vector. -/
theorem narrow_extended {c : Config} {x : Int} (hc : c.fits = true) (hx : x.natAbs ≤ c.P) : narrow c.extBits x = x := by
  have hbits : c.W + 1 ≤ c.extBits := by
    have hwidth := Config.fits_width hc
    have hlimb := Config.fits_limbBits hc
    simp only [Config.intBits] at hwidth
    simp only [Config.extBits, Nat.mul_succ]
    omega
  have hP : (c.P : Int) < (2 : Int) ^ (c.extBits - 1) := by
    have hpow : 2 ^ c.W ≤ 2 ^ (c.extBits - 1) := Nat.pow_le_pow_right (by norm_num) (by omega)
    exact_mod_cast lt_of_lt_of_le (Config.fits_lt hc) hpow
  exact narrow_eq (by omega) (by omega) (by omega)

/-- The new `g` of a divstep that does not swap is no larger than the old `f` and `g` were allowed to be. -/
theorem natAbs_halved_le {p : Nat} {f g : Int} (hf : f.natAbs ≤ p) (hg : g.natAbs ≤ p) :
    ((g + g % 2 * f) / 2).natAbs ≤ p := by
  rcases Int.emod_two_eq_zero_or_one g with e | e <;> rw [e] <;> omega

/-- In range, a divstep that swaps is exact (R87). -/
theorem divstep_swap {c : Config} {i : Nat} {x : DivState} (hc : c.fits = true) (hi : i < c.divsteps)
    (hx : DivState.InRange c i x) (h : 0 < x.d ∧ x.g % 2 = 1) : divstep c x =
      { d := 1 - x.d, f := x.g, g := (x.g - x.f) / 2, v := (2 * x.r) % c.P,
        r := (((x.r : Int) - (x.v : Int)) % (c.P : Int)).toNat } := by
  obtain ⟨hd1, hd2, hf, hg, -⟩ := hx
  rw [divstep, if_pos h, narrow_counter hc hi (by omega) (by omega), narrow_extended hc (by omega)]

/-- In range, a divstep that does not swap is exact (R87). -/
theorem divstep_noSwap {c : Config} {i : Nat} {x : DivState} (hc : c.fits = true) (hi : i < c.divsteps)
    (hx : DivState.InRange c i x) (h : ¬ (0 < x.d ∧ x.g % 2 = 1)) : divstep c x =
      { d := 1 + x.d, f := x.f, g := (x.g + x.g % 2 * x.f) / 2, v := (2 * x.v) % c.P,
        r := (x.r + (x.g % 2).toNat * x.v) % c.P } := by
  obtain ⟨hd1, hd2, hf, hg, -⟩ := hx
  rw [divstep, if_neg h, narrow_counter hc hi (by omega) (by omega), narrow_extended hc (natAbs_halved_le hf hg)]

/-- A divstep keeps the range, one wider in the counter (R89). -/
theorem inRange_divstep {c : Config} {i : Nat} {x : DivState} (hc : c.fits = true) (hi : i < c.divsteps)
    (hx : DivState.InRange c i x) : DivState.InRange c (i + 1) (divstep c x) := by
  have hP := Config.fits_pos hc
  have ⟨hd1, hd2, hf, hg, _, _, hodd⟩ := hx
  by_cases h : 0 < x.d ∧ x.g % 2 = 1
  · have ⟨hd, hgodd⟩ := h
    rw [divstep_swap hc hi hx h]
    refine ⟨?_, ?_, hg, ?_, Nat.mod_lt _ hP, toNat_emod_lt hP _, hgodd⟩ <;> push_cast <;> omega
  · rw [divstep_noSwap hc hi hx h]
    have hd3 : x.g % 2 = 1 → x.d ≤ 0 := fun hgodd => not_lt.1 fun hd => h ⟨hd, hgodd⟩
    refine ⟨?_, ?_, hf, natAbs_halved_le hf hg, Nat.mod_lt _ hP, Nat.mod_lt _ hP, hodd⟩ <;> push_cast <;> omega

/-- An inversion starts in range (R92). -/
theorem inRange_divInit {c : Config} (hc : c.fits = true) {a : Nat} (ha : a < c.P) :
    DivState.InRange c 0 (divInit c a) := by
  have hP := Config.fits_pos hc
  have hodd := Config.fits_odd hc
  refine ⟨by simp [divInit], by simp [divInit], ?_, ?_, hP, Nat.mod_lt _ hP, ?_⟩ <;>
    simp only [divInit, Config.msat] <;> omega

/-- An iteration takes the current buffer set through one batch into the other, which is the current one then (R93). -/
theorem current_iterate (s : State) : (iterate s).current = divstepBatch s.cfg s.current := by
  unfold iterate State.current
  split
  · next h => rw [if_neg (by simp only; omega)]
  · next h => rw [if_pos (by simp only; omega)]

theorem iterate_datapathInRange {s : State} (hc : s.cfg.fits = true) (hi : s.iter < s.cfg.nIter)
    (hx : DivState.InRange s.cfg (s.iter * s.cfg.batch) s.current) : (iterate s).DatapathInRange := by
  intro rd rs1 o _
  rw [iterate_cfg, iterate_iter, current_iterate, divstepBatch_eq]
  exact ⟨hi, by simpa [Config.batch] using inRange_divstep hc (by simpa [Config.batch, Config.divsteps] using hi) hx⟩

theorem datapathInRange_of_idle {s : State} (hl : s.latch = none) : s.DatapathInRange :=
  fun _ _ _ h => nomatch hl.symm.trans h

theorem startOf_datapathInRange (i : Instr) {s : State} (hc : s.cfg.fits = true) (hl : s.latch = none) :
    (startOf i s).DatapathInRange := by
  intro rd rs1 o h
  obtain rfl : Instr.inv rd rs1 = i := (startOf_cases i s).instr_of_latch hl h
  exact ⟨Nat.zero_le _, inRange_divInit hc (canon_lt (Config.fits_pos hc) _)⟩

theorem turnOf_datapathInRange {i : Instr} {o : Operands} {s : State} (hc : s.cfg.fits = true)
    (hl : s.latch = some { instr := i, src := o }) (h : s.DatapathInRange) : (turnOf i o s).DatapathInRange := by
  intro rd rs1 o' hl'
  cases hl.symm.trans ((turnOf_cases i o s).latch_of_some hl')
  obtain ⟨-, hrange⟩ := h rd rs1 o hl
  rw [turnOf] at hl' ⊢
  rcases turnInversion_cases rd o s with ⟨hi, e⟩ | e <;> rw [e] at hl' ⊢
  · exact iterate_datapathInRange hc hi hrange rd rs1 o hl'
  · cases hl'

/-- Settles O51: an inversion starts in range, an iteration keeps the range, and nothing else touches the datapath of an
inversion in flight. -/
theorem datapathStaysInRange : Obligations.DatapathStaysInRange := by
  intro s t h hstep
  obtain ⟨hok, hc⟩ := step_cases hstep
  have hfits := Config.ok_fits hok
  cases hc with
  | start i hl => exact startOf_datapathInRange i hfits hl
  | turn i o hl => exact turnOf_datapathInRange hfits hl h
  | softReset | hold => exact datapathInRange_of_idle rfl
  | _ => exact h

/-! ## After reset -/

/-- Settles O22: after reset the registers and buffers hold 0, nothing is in flight and nothing is asked for. -/
theorem resetMeetsTheInvariants : Obligations.ResetMeetsTheInvariants := fun c hc =>
  ⟨resetOf_reduced (Config.fits_pos hc), resetOf_canonical c, datapathInRange_of_idle rfl,
    ⟨fun hq => (Bool.false_ne_true hq).elim, fun _ => ⟨rfl, rfl⟩⟩⟩

/-! ## The flags `VALID` and `RESULT` (R22, R23) -/

/-- `CTRL` written with `SRST = 1` is a reset of the block. -/
theorem resetNext_of_srst {s : State} {v : Word} (he : s.events.head? = some (s.writeTo 0x010 v))
    (hv : v.getLsbD 0 = true) : s.ResetNext := by
  obtain ⟨es, hes⟩ := List.head?_eq_some_iff.1 he
  exact .inr ⟨v, es, hes, hv⟩

/-- `rst_n` driven low is a reset of the block. -/
theorem resetNext_of_pin {s : State} (he : s.events.head? = some (.rstN false)) : s.ResetNext :=
  .inl (List.head?_eq_some_iff.1 he)

/-- A turn that changes `VALID` completes one of its five writers. -/
theorem turnOf_valid_writer {i : Instr} {o : Operands} {s : State} (h : (turnOf i o s).valid ≠ s.valid) :
    (turnOf i o s).latch = none ∧ (turnOf i o s).done = true ∧
    ∃ rd, i = .fromBe rd ∨ i = .fromLe rd ∨ i = .fromUint rd ∨ (∃ rs1, i = .inv rd rs1) ∨ i = .rand rd := by
  cases i with
  | fromBe rd => exact ⟨rfl, rfl, rd, .inl rfl⟩
  | fromLe rd => exact ⟨rfl, rfl, rd, .inr (.inl rfl)⟩
  | fromUint rd => exact ⟨rfl, rfl, rd, .inr (.inr (.inl rfl))⟩
  | inv rd rs1 =>
    rw [turnOf] at h ⊢
    rcases turnInversion_cases rd o s with ⟨-, e⟩ | e <;> rw [e] at h ⊢
    · exact absurd (iterate_valid s) h
    · exact ⟨rfl, rfl, rd, .inr (.inr (.inr (.inl ⟨rs1, rfl⟩)))⟩
  | rand rd =>
    rw [turnOf] at h ⊢
    rcases turnSampling_cases rd s with e | e | ⟨x, e⟩ | e <;> rw [e] at h ⊢
    · exact absurd rfl h
    · exact ⟨rfl, rfl, rd, .inr (.inr (.inr (.inr rfl)))⟩
    · exact ⟨rfl, rfl, rd, .inr (.inr (.inr (.inr rfl)))⟩
    · exact absurd rfl h
  | _ => exact absurd rfl h

/-- Settles O53: of all cases of a step, only a length error, a turn of one of the five writers and a reset change
`VALID`. -/
theorem validHasOnlyItsWriters : Obligations.ValidHasOnlyItsWriters := by
  intro s t hstep hne
  obtain ⟨-, hc⟩ := step_cases hstep
  cases hc with
  | start i hl =>
    have hs := startOf_cases i { s with events := s.events.tail, resp := some .ack }
    obtain ⟨hn, e⟩ := hs.lengthError_of_valid_ne hne
    rw [e]
    exact .inr (.inl ⟨hl, hl, hn, rfl, rfl, rfl⟩)
  | turn i o hl =>
    obtain ⟨hlatch, hdone, rd, hi⟩ := turnOf_valid_writer (s := { s with events := s.events.tail }) hne
    exact .inl ⟨_, rd, hl, hlatch, hdone, hi⟩
  | softReset v he hv => exact .inr (.inr ⟨resetNext_of_srst he hv, rfl⟩)
  | hold he => exact .inr (.inr ⟨resetNext_of_pin he, rfl⟩)
  | _ => exact absurd rfl hne

/-- A turn that changes `RESULT` completes a compare. -/
theorem turnOf_result_writer {i : Instr} {o : Operands} {s : State} (h : (turnOf i o s).result ≠ s.result) :
    (turnOf i o s).latch = none ∧ (turnOf i o s).done = true ∧
    ∃ rs1, i = .isZero rs1 ∨ i = .isOdd rs1 ∨ ∃ rs2, i = .eq rs1 rs2 ∨ i = .gt rs1 rs2 ∨ i = .lt rs1 rs2 := by
  cases i with
  | isZero rs1 => exact ⟨rfl, rfl, rs1, .inl rfl⟩
  | isOdd rs1 => exact ⟨rfl, rfl, rs1, .inr (.inl rfl)⟩
  | eq rs1 rs2 => exact ⟨rfl, rfl, rs1, .inr (.inr ⟨rs2, .inl rfl⟩)⟩
  | gt rs1 rs2 => exact ⟨rfl, rfl, rs1, .inr (.inr ⟨rs2, .inr (.inl rfl)⟩)⟩
  | lt rs1 rs2 => exact ⟨rfl, rfl, rs1, .inr (.inr ⟨rs2, .inr (.inr rfl)⟩)⟩
  | inv rd =>
    rw [turnOf] at h
    rcases turnInversion_cases rd o s with ⟨-, e⟩ | e <;> rw [e] at h
    · exact absurd (iterate_result s) h
    · exact absurd rfl h
  | rand rd =>
    rw [turnOf] at h
    rcases turnSampling_cases rd s with e | e | ⟨x, e⟩ | e <;> rw [e] at h <;> exact absurd rfl h
  | _ => exact absurd rfl h

/-- Settles O54: of all cases of a step, only a turn of a compare and a reset change `RESULT`. -/
theorem resultHasOnlyItsWriters : Obligations.ResultHasOnlyItsWriters := by
  intro s t hstep hne
  obtain ⟨-, hc⟩ := step_cases hstep
  cases hc with
  | start i => exact absurd (startOf_cases i _).result hne
  | turn i o hl =>
    obtain ⟨hlatch, hdone, rs1, hi⟩ := turnOf_result_writer (s := { s with events := s.events.tail }) hne
    exact .inl ⟨_, rs1, hl, hlatch, hdone, hi⟩
  | softReset v he hv => exact .inr ⟨resetNext_of_srst he hv, rfl⟩
  | hold he => exact .inr ⟨resetNext_of_pin he, rfl⟩
  | _ => exact absurd rfl hne

/-! ## The error bits (R24) -/

/-- No error bit that is 1 in `s` is 0 in `t`. -/
def State.KeepsErrors (s t : State) : Prop :=
  (s.errIllegal = true → t.errIllegal = true) ∧ (s.errLen = true → t.errLen = true) ∧
  (s.errBusy = true → t.errBusy = true) ∧ (s.errRng = true → t.errRng = true)

theorem StartCase.keepsErrors {i : Instr} {s t : State} (hc : StartCase i s t) : s.KeepsErrors t := by
  cases hc with
  | lengthError => exact ⟨id, fun _ => rfl, id, id⟩
  | accept => exact ⟨id, id, id, id⟩

theorem TurnCase.keepsErrors {s t : State} (hc : TurnCase s t) : s.KeepsErrors t := by
  cases hc with
  | goesOn => exact ⟨id, id, id, id⟩
  | completes _ _ _ _ _ _ _ _ he => exact ⟨id, id, id, he⟩

/-- A W1C bit that is 1 stays 1 where the write has a 0. -/
theorem w1c_of_not_written {bit written : Bool} (hb : bit = true) (hw : written = false) : w1c bit written = true := by
  simp [w1c, hb, hw]

/-- Settles O55: only a reset and a write of `STATUS` write an error bit with anything but 1. -/
theorem errorBitsAreSticky : Obligations.ErrorBitsAreSticky := by
  intro s t hstep
  obtain ⟨-, hc⟩ := step_cases hstep
  cases hc with
  | softReset v he hv => exact .inl (resetNext_of_srst he hv)
  | hold he => exact .inl (resetNext_of_pin he)
  | status v he =>
    obtain ⟨es, hes⟩ := List.head?_eq_some_iff.1 he
    exact .inr (.inl ⟨v, es, hes, w1c_of_not_written, w1c_of_not_written, w1c_of_not_written, w1c_of_not_written⟩)
  | dropped => exact .inr (.inr ⟨id, id, fun _ => rfl, id⟩)
  | illegal => exact .inr (.inr ⟨fun _ => rfl, id, id, id⟩)
  | start i => exact .inr (.inr (startOf_cases i { s with events := s.events.tail, resp := some .ack }).keepsErrors)
  | turn i o => exact .inr (.inr (turnOf_cases i o { s with events := s.events.tail }).keepsErrors)
  | _ => exact .inr (.inr ⟨id, id, id, id⟩)

/-! ## `BUSY` and `DONE` (R25) -/

/-- What a step does to the latch and to `DONE`. -/
inductive BusyDoneCase (s t : State) : Prop
  | reset (hr : s.ResetNext) (hl : t.latch = none) (hd : t.done = false)
  | same (hl : t.latch = s.latch) (hd : t.done = s.done)
  | starts (hs : s.latch = none) (hl : t.latch ≠ none) (hd : t.done = false)
  | ends (hl : t.latch = none) (hd : t.done = true)
  | statusWrite (v : Word) (es : List Event) (he : s.events = s.writeTo 0x014 v :: es) (hl : t.latch = s.latch)
      (hd : t.done = w1c s.done (v.getLsbD 1))

/-- The start of a command on an idle core is its accept, or its failure before accept (R25). -/
theorem StartCase.busyDone {i : Instr} {s t : State} (hc : StartCase i s t) (hs : s.latch = none) :
    (t.latch ≠ none ∧ t.done = false) ∨ (t.latch = none ∧ t.done = true) := by
  cases hc with
  | lengthError => exact .inr ⟨hs, rfl⟩
  | accept => exact .inl ⟨Option.some_ne_none _, rfl⟩

theorem step_busyDone {s t : State} (hstep : step s = .next t) : BusyDoneCase s t := by
  obtain ⟨-, hc⟩ := step_cases hstep
  cases hc with
  | softReset v he hv => exact .reset (resetNext_of_srst he hv) rfl rfl
  | hold he => exact .reset (resetNext_of_pin he) rfl rfl
  | status v he =>
    obtain ⟨es, hes⟩ := List.head?_eq_some_iff.1 he
    exact .statusWrite v es hes rfl rfl
  | illegal hl => exact .ends hl rfl
  | start i hl =>
    rcases (startOf_cases i { s with events := s.events.tail, resp := some .ack }).busyDone hl with ⟨h, hd⟩ | ⟨h, hd⟩
    · exact .starts hl h hd
    · exact .ends h hd
  | turn i o =>
    rcases (turnOf_cases i o { s with events := s.events.tail }).busyDone with ⟨h, hd⟩ | ⟨h, hd⟩
    · exact .same h hd
    · exact .ends h hd
  | _ => exact .same rfl rfl

/-- A step whose next event is known is a step on that event. -/
theorem step_eq_stepOn {s : State} {e : Event} {es : List Event} (he : s.events = e :: es) :
    step s = ({ s with events := es } : State).stepOn e := by
  rw [State.stepOn, ← he]

/-- Out of reset, a `CMD` write on an idle block is the start of its command, or an illegal command (R107). -/
theorem stepOn_command_idle {s : State} (v : Word) (hok : s.cfg.ok = true) (hr : s.rstN = true) (hl : s.latch = none) :
    (∃ i, s.stepOn (s.writeTo 0x018 v) = .next (startOf i { s with resp := some .ack })) ∨
    s.stepOn (s.writeTo 0x018 v) = .next ({ s with resp := some .ack } : State).illegalCommand := by
  have hissue : s.stepOn (s.writeTo 0x018 v) = ({ s with resp := some .ack } : State).issue v :=
    (stepOn_writeTo s (off := 0x018) v hok (by norm_num) (by norm_num)).trans (writeAccess_cmd v hr)
  have hidle : ({ s with resp := some .ack } : State).latch = none := hl
  rw [hissue]
  cases hd : decode v with
  | none => exact .inr (issue_illegal hidle hd)
  | some i => exact .inl ⟨i, (issue_legal hidle hd).trans (exec_idle i hidle)⟩

/-- A `CMD` write on an idle block starts a command or fails it at once (R25). -/
theorem commandWrite_busyDone {s t : State} {v : Word} {es : List Event} (hstep : step s = .next t)
    (he : s.events = s.writeTo 0x018 v :: es) (hr : s.rstN = true) (hl : s.latch = none) :
    (t.latch ≠ none ∧ t.done = false) ∨ (t.latch = none ∧ t.done = true) := by
  obtain ⟨hok, -⟩ := step_cases hstep
  have hon := (step_eq_stepOn he).symm.trans hstep
  rcases stepOn_command_idle (s := { s with events := es }) v hok hr hl with ⟨i, h⟩ | h <;> cases h.symm.trans hon
  · exact (startOf_cases i _).busyDone hl
  · exact .inr ⟨hl, rfl⟩

/-- Settles O56: each of the ways a step can change the latch and `DONE` meets every clause. -/
theorem busyAndDoneChangeOnlySo : Obligations.BusyAndDoneChangeOnlySo := by
  intro s t hstep
  have hcmd v es (he : s.events = s.writeTo 0x018 v :: es) := commandWrite_busyDone hstep he
  cases step_busyDone hstep with
  | reset hr hl hd => exact .inl ⟨hr, fun _ => ⟨hl, hd⟩⟩
  | same hl hd =>
    exact .inr ⟨fun h h' => absurd (hl.trans h) h', fun h h' => absurd (hl.symm.trans h') h, fun _ _ => hl,
      fun h h' => (by rw [hd, h] at h'; cases h'), fun h h' => (by rw [hd, h] at h'; cases h'), hcmd⟩
  | starts hs hl hd =>
    exact .inr ⟨fun _ _ => hd, fun h => absurd hs h, fun h => absurd hs h, fun _ _ => .inl ⟨hs, hl⟩,
      fun _ h => absurd h (by simp [hd]), hcmd⟩
  | ends hl hd =>
    exact .inr ⟨fun _ h => absurd hl h, fun _ _ => hd, fun _ h => absurd hl h, fun _ h => absurd h (by simp [hd]),
      fun _ _ => hl, hcmd⟩
  | statusWrite v es he hl hd =>
    exact .inr ⟨fun h h' => absurd (hl.trans h) h', fun h h' => absurd (hl.symm.trans h') h, fun _ _ => hl,
      fun h h' => .inr ⟨v, es, he, by simpa [hd, w1c, h] using h'⟩, fun h h' => by simp [hd, w1c, h] at h', hcmd⟩

/-! ## The identification registers (R27) -/

/-- The identification registers read their words whatever the state of the block (R27, R121, R126). -/
theorem readAccess_id {s : State} {r : BusReg} (hr : r = .id ∨ r = .param0 ∨ r = .param1 ∨ r = .param2) :
    s.readAccess r = { s with resp := some (.data (s.readReg r)) } := by
  have hw : r.isWindow = false := by rcases hr with rfl | rfl | rfl | rfl <;> rfl
  rcases Bool.eq_false_or_eq_true s.rstN with hn | hn
  · exact readAccess_reg hn (.inr hw)
  · rw [readAccess_reset r hn]
    rcases hr with rfl | rfl | rfl | rfl <;> rfl

/-- The identification registers ignore writes, in reset and out of it (R27, R121). -/
theorem writeAccess_id {s : State} {r : BusReg} (v : Word)
    (hr : r = .id ∨ r = .param0 ∨ r = .param1 ∨ r = .param2) :
    s.writeAccess r v = .next { s with resp := some .ack } := by
  rcases Bool.eq_false_or_eq_true s.rstN with hn | hn
  · rw [writeAccess_reg v hn (by rcases hr with rfl | rfl | rfl | rfl <;> simp)]
    rcases hr with rfl | rfl | rfl | rfl <;> rfl
  · exact writeAccess_reset r v hn

/-- A read of one of the four identification registers at the bus. -/
theorem stepOn_readFrom_id {s : State} {off : Nat} (hok : s.cfg.ok = true) (h : off < 0x010) (h4 : off % 4 = 0) :
    s.stepOn (s.readFrom off) = .next { s with resp := some (.data (s.readReg (busReg off))) } := by
  rw [stepOn_readFrom s hok (by omega) h4, readAccess_id (busReg_lt h4 h)]

/-- A field of a word holds a value that has room in it. -/
theorem toNat_of_field {n k : Nat} {f : BitVec n} (hf : f = BitVec.ofNat n k) (hk : k < 2 ^ n) : f.toNat = k := by
  rw [hf, BitVec.toNat_ofNat, Nat.mod_eq_of_lt hk]

/-- Settles O15: the bus reads and writes of the four registers, and R7's bounds for the room in their fields. -/
theorem identificationRegistersAreConstant : Obligations.IdentificationRegistersAreConstant := by
  refine ⟨fun s v hok => ?_, by decide⟩
  have hfits := Config.ok_fits hok
  obtain ⟨-, hnb, -, hW, hnIter, hlimbs, hbatch⟩ := Config.fits_fields hfits
  have hlimb := Config.fits_limbBits hfits
  obtain ⟨h0W, h0limbs, h0limbBits⟩ := param0Word_fields s.cfg
  obtain ⟨h1nb, h1nIter⟩ := param1Word_fields s.cfg
  obtain ⟨h2batch, h2nreg, h2zero⟩ := param2Word_fields s.cfg
  have read (off : Nat) := stepOn_readFrom_id (off := off) hok
  refine ⟨param0Word s.cfg, param1Word s.cfg, param2Word s.cfg, read 0x000 (by norm_num) rfl,
    read 0x004 (by norm_num) rfl, read 0x008 (by norm_num) rfl, read 0x00C (by norm_num) rfl,
    toNat_of_field h0W (by omega), toNat_of_field h0limbs (by omega), toNat_of_field h0limbBits (by omega),
    toNat_of_field h1nb (by omega), toNat_of_field h1nIter (by omega), toNat_of_field h2batch (by omega),
    toNat_of_field h2nreg (by decide), h2zero, fun off h h4 => ?_⟩
  rw [stepOn_writeTo s v hok (by omega) h4, writeAccess_id v (busReg_lt h4 h)]

end Sys2Proof.Machine
end

section
/-! PROOFS. The memory chapter (spec/20_memory.md): the sampler's requests, the places of the register window that hold
nothing, the two data windows, accesses that change nothing, and the answers of the randomness source. -/

namespace Sys2Proof.Machine

/-! ## The sampler (R47, R121) -/

/-- A block that asks for nothing is consistent, out of reset or with nothing in flight. -/
theorem samplerConsistent_of_silent {s : State} (hq : s.rngReq = false) (h : s.rstN = true ∨ s.latch = none) :
    s.SamplerConsistent :=
  ⟨fun hq' => absurd (hq.symm.trans hq') Bool.false_ne_true,
    fun hr => ⟨h.resolve_left fun hr' => absurd (hr.symm.trans hr') Bool.false_ne_true, hq⟩⟩

/-- A request made for the `RAND` in flight is consistent. -/
theorem request_samplerConsistent {s : State} {rd : FReg} {o : Operands} (hr : s.rstN = true)
    (hl : s.latch = some { instr := .rand rd, src := o }) : s.request.SamplerConsistent :=
  ⟨fun _ => ⟨rfl, rd, o, hl⟩, fun hr' => absurd (hr'.symm.trans hr) Bool.false_ne_true⟩

/-- In a consistent block with no `RAND` in flight no request is outstanding. -/
theorem State.SamplerConsistent.silent {s : State} (h : s.SamplerConsistent)
    (hl : ∀ rd o, s.latch ≠ some { instr := .rand rd, src := o }) : s.rngReq = false := by
  obtain ⟨hreq, -⟩ := h
  refine Bool.eq_false_iff.2 fun hq => ?_
  obtain ⟨-, rd, o, hlatch⟩ := hreq hq
  exact hl rd o hlatch

theorem StartCase.rstN {i : Instr} {s t : State} (hc : StartCase i s t) : t.rstN = s.rstN := by cases hc <;> rfl

theorem TurnCase.rstN {s t : State} (hc : TurnCase s t) : t.rstN = s.rstN := by cases hc <;> rfl

/-- The start of a command that is no `RAND` asks for nothing. -/
theorem startOf_rngReq {i : Instr} (hi : ∀ rd, i ≠ .rand rd) (s : State) : (startOf i s).rngReq = s.rngReq := by
  cases i with
  | fromBe | fromLe => rw [startOf]; split <;> rfl
  | rand rd => exact absurd rfl (hi rd)
  | _ => rfl

/-- A turn of a command that is no `RAND` asks for nothing. -/
theorem turnOf_rngReq {i : Instr} (hi : ∀ rd, i ≠ .rand rd) (o : Operands) (s : State) :
    (turnOf i o s).rngReq = s.rngReq := by
  cases i with
  | inv rd rs1 =>
    rcases turnInversion_cases rd o s with ⟨-, e⟩ | e <;> rw [turnOf, e]
    · exact iterate_rngReq s
    · rfl
  | rand rd => exact absurd rfl (hi rd)
  | _ => rfl

/-- Without an answer a sampling waits (R47, R103). -/
theorem turnSampling_wait (rd : FReg) {s : State} (hd : s.draw = none) : turnSampling rd s = s := by
  simp only [turnSampling, hd]

theorem startOf_samplerConsistent (i : Instr) {s : State} (h : s.SamplerConsistent) (hl : s.latch = none)
    (hr : s.rstN = true) : (startOf i s).SamplerConsistent := by
  by_cases hi : ∃ rd, i = .rand rd
  · obtain ⟨rd, rfl⟩ := hi
    exact request_samplerConsistent (s := s.accept (.rand rd) Operands.empty) hr rfl
  · have hq : s.rngReq = false := h.silent fun _ _ hs => nomatch hl.symm.trans hs
    exact samplerConsistent_of_silent ((startOf_rngReq (not_exists.1 hi) s).trans hq)
      (.inl ((startOf_cases i s).rstN.trans hr))

/-- With its request outstanding a sampling waits; with an answer it ends, or asks again (R101, R102). -/
theorem turnSampling_samplerConsistent {rd : FReg} {o : Operands} {s : State} (h : s.SamplerConsistent)
    (hl : s.latch = some { instr := .rand rd, src := o }) (hr : s.rstN = true) :
    (turnSampling rd s).SamplerConsistent := by
  have ⟨hreq, _⟩ := h
  cases hq : s.rngReq with
  | true => rw [turnSampling_wait rd (hreq hq).1]; exact h
  | false =>
    rcases turnSampling_cases rd s with e | e | ⟨x, e⟩ | e <;> rw [e]
    · exact h
    · exact samplerConsistent_of_silent hq (.inl hr)
    · exact samplerConsistent_of_silent hq (.inl hr)
    · exact request_samplerConsistent hr hl

theorem turnOf_samplerConsistent {i : Instr} {o : Operands} {s : State} (h : s.SamplerConsistent)
    (hl : s.latch = some { instr := i, src := o }) (hr : s.rstN = true) : (turnOf i o s).SamplerConsistent := by
  by_cases hi : ∃ rd, i = .rand rd
  · obtain ⟨rd, rfl⟩ := hi
    exact turnSampling_samplerConsistent h hl hr
  · have hq : s.rngReq = false := h.silent fun rd _ hs => hi ⟨rd, by cases hl.symm.trans hs; rfl⟩
    exact samplerConsistent_of_silent ((turnOf_rngReq (not_exists.1 hi) o s).trans hq)
      (.inl ((turnOf_cases i o s).rstN.trans hr))

/-- Settles O52: a request is made for a `RAND` only, its answer ends it, and a reset of either kind leaves nothing in
flight and nothing asked for. -/
theorem samplerStaysConsistent : Obligations.SamplerStaysConsistent := by
  intro s t h hstep
  obtain ⟨-, hc⟩ := step_cases hstep
  have ⟨hreq, _⟩ := h
  cases hc with
  | start i hl hr =>
    exact startOf_samplerConsistent i (s := { s with events := s.events.tail, resp := some .ack }) h hl hr
  | turn i o hl hr => exact turnOf_samplerConsistent (s := { s with events := s.events.tail }) h hl hr
  | answer a hq hr => exact samplerConsistent_of_silent rfl (.inl hr)
  | softReset | hold => exact samplerConsistent_of_silent rfl (.inr rfl)
  | release => exact ⟨hreq, fun hr => nomatch hr⟩
  | _ => exact h

/-! ## Accesses of one register -/

/-- Out of reset, a read of an idle block, or of a register that is no data window, answers the register's word. -/
theorem stepOn_readFrom_reg {s : State} {off : Nat} {r : BusReg} (hok : s.cfg.ok = true) (hr : s.rstN = true)
    (ho : off < 0x800) (h4 : off % 4 = 0) (hreg : busReg off = r) (h : s.latch = none ∨ r.isWindow = false) :
    s.stepOn (s.readFrom off) = .next { s with resp := some (.data (s.readReg r)) } := by
  rw [stepOn_readFrom s hok ho h4, hreg, readAccess_reg hr h]

/-- Out of reset, a write of a register that is not `CMD` is acknowledged and done. -/
theorem stepOn_writeTo_reg {s : State} {off : Nat} {r : BusReg} (v : Word) (hok : s.cfg.ok = true) (hr : s.rstN = true)
    (ho : off < 0x800) (h4 : off % 4 = 0) (hreg : busReg off = r) (hcmd : r ≠ .cmd) :
    s.stepOn (s.writeTo off v) = .next (({ s with resp := some .ack } : State).writeReg r v) := by
  rw [stepOn_writeTo s v hok ho h4, hreg, writeAccess_reg v hr hcmd]

/-- A write of `BUF_LEN` on an idle block (R20). -/
theorem writeReg_bufLen_idle {s : State} (v : Word) (hl : s.latch = none) :
    s.writeReg .bufLen v = { s with bufLen := v.setWidth 16 } :=
  if_neg (by simp [not_busy_of_latch hl])

/-- A write of a word of the buffer window on an idle block (R37). -/
theorem writeReg_bufw_idle {s : State} (k : Nat) (v : Word) (hl : s.latch = none) :
    s.writeReg (.bufw k) v = s.writeBufWord k v :=
  if_neg (by simp [not_busy_of_latch hl])

/-- A write of a word of the integer window on an idle block (R39). -/
theorem writeReg_intw_idle {s : State} (j : Nat) (v : Word) (hl : s.latch = none) :
    s.writeReg (.intw j) v = s.writeIntWord j v :=
  if_neg (by simp [not_busy_of_latch hl])

/-! ## Reserved places (R36) -/

/-- A write of a word of the buffer window past the last byte changes nothing. -/
theorem writeBufWord_padding {s : State} {k : Nat} (v : Word) (h : s.cfg.nb ≤ 4 * k) : s.writeBufWord k v = s := by
  have lane {t : State} (j : Nat) (b : Byte) (hj : t.cfg.nb ≤ j) : t.writeLane j b = t := if_neg (by omega)
  rw [State.writeBufWord, lane (4 * k) _ h, lane (4 * k + 1) _ (by omega), lane (4 * k + 2) _ (by omega),
    lane (4 * k + 3) _ (by omega)]

/-- A write of a word of the integer window past the last bit changes nothing. -/
theorem writeIntWord_padding {s : State} {j : Nat} (v : Word) (h : s.cfg.intBits ≤ 32 * j)
    (hn : s.int < 2 ^ s.cfg.intBits) : s.writeIntWord j v = s := by
  rw [State.writeIntWord, replaceWord_padding v h hn]

/-- The places of a window that hold no data: they read 0, and a write leaves the block as it is. -/
theorem padding_reads_zero_and_ignores_writes {s : State} {off : Nat} (v : Word) (hok : s.cfg.ok = true)
    (hr : s.rstN = true) (h4 : off % 4 = 0) (ho : off < 0x800) (hl : s.latch = none) (hint : s.int < 2 ^ s.cfg.intBits)
    (h : (0x100 + 4 * s.cfg.nbw ≤ off ∧ off < 0x400) ∨ 0x400 + 4 * s.cfg.niw ≤ off) :
    s.stepOn (s.readFrom off) = .next { s with resp := some (.data 0) } ∧
    s.stepOn (s.writeTo off v) = .next { s with resp := some .ack } := by
  rcases busReg_window h4 (by omega) ho with ⟨k, rfl, hk, hreg⟩ | ⟨j, rfl, hj, hreg⟩
  · have hpad : s.cfg.nb ≤ 4 * k := by simp only [Config.nbw] at h; omega
    rw [stepOn_readFrom_reg hok hr ho h4 hreg (.inl hl), stepOn_writeTo_reg v hok hr ho h4 hreg nofun,
      writeReg_bufw_idle (s := { s with resp := some .ack }) k v hl,
      writeBufWord_padding (s := { s with resp := some .ack }) v hpad, State.readReg, bufWord_padding s hpad]
    exact ⟨rfl, rfl⟩
  · have hpad : s.cfg.intBits ≤ 32 * j := by simp only [Config.niw] at h; omega
    rw [stepOn_readFrom_reg hok hr ho h4 hreg (.inl hl), stepOn_writeTo_reg v hok hr ho h4 hreg nofun,
      writeReg_intw_idle (s := { s with resp := some .ack }) j v hl,
      writeIntWord_padding (s := { s with resp := some .ack }) v hpad hint, State.readReg, intWord_padding s hpad]
    exact ⟨rfl, rfl⟩

/-- A word has no bit in common with a mask when it is 0 wherever the mask is 1. -/
theorem and_mask_eq_zero {w m : Word} (h : ∀ k < 32, m.getLsbD k = true → w.getLsbD k = false) : w &&& m = 0 := by
  apply BitVec.eq_of_getLsbD_eq
  intro k hk
  cases hm : m.getLsbD k with
  | true => simp [hm, h k hk hm]
  | false => simp [hm]

theorem getLsbD_and_mask (v : Word) {m : Word} {k : Nat} (h : m.getLsbD k = true) :
    (v &&& m).getLsbD k = v.getLsbD k := by
  simp [h]

theorem getLsbD_or_mask (v : Word) {m : Word} {k : Nat} (h : m.getLsbD k = false) :
    (v ||| m).getLsbD k = v.getLsbD k := by
  simp [h]

/-- The reserved bits of `STATUS` read 0 (R24). -/
theorem statusWord_reserved (s : State) : s.statusWord &&& 0xFFFFF0F0 = 0 := by
  have mask : ∀ k < 32, (0xFFFFF0F0 : Word).getLsbD k = true → (4 ≤ k ∧ k < 8) ∨ 12 ≤ k := by decide
  refine and_mask_eq_zero fun k hk hm => ?_
  have := mask k hk hm
  rw [getLsbD_statusWord]
  iterate 8 rw [if_neg (by omega)]

/-- The reserved bits of `CTRL` read 0, and so does `SRST` (R26). -/
theorem ctrlWord_reserved (s : State) : s.ctrlWord &&& 0xFFFFFFFD = 0 := by
  refine and_mask_eq_zero fun k _ hm => ?_
  rw [getLsbD_ctrlWord, if_neg]
  rintro rfl
  exact absurd hm (by decide)

/-- The reserved bits of `BUF_LEN` read 0 (R20). -/
theorem bufLen_reserved (s : State) : s.readReg .bufLen &&& 0xFFFF0000 = 0 := by
  have mask : ∀ k < 32, (0xFFFF0000 : Word).getLsbD k = true → 16 ≤ k := by decide
  refine and_mask_eq_zero fun k hk hm => ?_
  rw [State.readReg, BitVec.getLsbD_setWidth, BitVec.getLsbD_of_ge _ _ (mask k hk hm), Bool.and_false]

/-- A write of `STATUS` goes by its W1C bits alone (R24). -/
theorem writeStatus_congr (s : State) {v w : Word} (h : ∀ k ∈ [1, 8, 9, 10, 11], v.getLsbD k = w.getLsbD k) :
    s.writeStatus v = s.writeStatus w := by
  simp only [State.writeStatus, h 1 (by decide), h 8 (by decide), h 9 (by decide), h 10 (by decide), h 11 (by decide)]

/-- A write of `CTRL` goes by `SRST` and `IE` alone (R26). -/
theorem writeCtrl_congr (s : State) {v w : Word} (h : ∀ k ∈ [0, 1], v.getLsbD k = w.getLsbD k) :
    s.writeCtrl v = s.writeCtrl w := by
  simp only [State.writeCtrl, h 0 (by decide), h 1 (by decide)]

/-- A write of `BUF_LEN` goes by its low 16 bits alone (R20). -/
theorem writeReg_bufLen_congr (s : State) {v w : Word} (h : ∀ k < 16, v.getLsbD k = w.getLsbD k) :
    s.writeReg .bufLen v = s.writeReg .bufLen w := by
  have hlow : v.setWidth 16 = w.setWidth 16 := by
    apply BitVec.eq_of_getLsbD_eq
    intro k hk
    rw [BitVec.getLsbD_setWidth, BitVec.getLsbD_setWidth, h k hk]
  simp only [State.writeReg, hlow]

/-- Settles O11: the map says which offsets are reserved, padding lies past the data of its window, and each writable
register goes by its own bits alone. -/
theorem reservedPlacesReadZeroAndIgnoreWrites : Obligations.ReservedPlacesReadZeroAndIgnoreWrites := by
  intro s off v hok hr h4 ho
  refine ⟨fun ⟨hlo, hhi⟩ => ?_, padding_reads_zero_and_ignores_writes v hok hr h4 ho, fun h => ?_,
    stepOn_readFrom_reg hok hr (by norm_num) (by norm_num) (r := .cmd) rfl (.inr rfl),
    ⟨statusWord_reserved s, writeStatus_congr s fun k hk => getLsbD_and_mask v ?_,
      writeStatus_congr s fun k hk => getLsbD_or_mask v ?_⟩,
    ⟨ctrlWord_reserved s, writeCtrl_congr s fun k hk => getLsbD_and_mask v ?_,
      writeCtrl_congr s fun k hk => getLsbD_or_mask v ?_⟩,
    bufLen_reserved s, writeReg_bufLen_congr s fun k hk => getLsbD_and_mask v ?_⟩
  · have hreg := busReg_reserved hlo hhi
    exact ⟨stepOn_readFrom_reg hok hr ho h4 hreg (.inr rfl), stepOn_writeTo_reg v hok hr ho h4 hreg nofun⟩
  · rw [stepOn_writeTo s v hok ho h4, writeAccess_id v (busReg_lt h4 h)]
  -- Each mask covers every bit its register goes by (`&&&`), or none of them (`|||`).
  all_goals
    revert k
    decide

/-! ## The data windows (R37-R39) -/

/-- Every word of the buffer window that holds a byte lies in the window (R7). -/
theorem lt_of_lt_nbw {c : Config} (h : c.ok = true) {k : Nat} (hk : k < c.nbw) : k < 192 := by
  obtain ⟨-, hnb, -⟩ := Config.fits_fields (Config.ok_fits h)
  simp only [Config.nbw] at hk
  omega

/-- Every word of the integer window that holds a bit lies in the window (R7). -/
theorem lt_of_lt_niw {c : Config} (h : c.ok = true) {j : Nat} (hj : j < c.niw) : j < 256 := by
  obtain ⟨-, -, hbits, -⟩ := Config.fits_fields (Config.ok_fits h)
  simp only [Config.niw] at hj
  omega

/-- Settles O12: the word read is its four lanes, and a write sets the bytes of its lanes only. -/
theorem bufferWindowPacksBytes : Obligations.BufferWindowPacksBytes := by
  intro s k v hok hr hl hwf hk
  have hk192 := lt_of_lt_nbw hok hk
  have hreg := busReg_bufw hk192
  have ho : 0x100 + 4 * k < 0x800 := by omega
  have h4 : (0x100 + 4 * k) % 4 = 0 := by omega
  have read := read_writeBufWord (s := { s with resp := some .ack }) k v hwf
  refine ⟨⟨s.bufWord k, stepOn_readFrom_reg hok hr ho h4 hreg (.inl hl), fun t ht => bufWord_lane s k ht⟩,
    ⟨(({ s with resp := some .ack } : State).writeBufWord k v).buf, ?_, fun t ht hnb => ?_, fun j hj => ?_⟩, ?_⟩
  · rw [stepOn_writeTo_reg v hok hr ho h4 hreg nofun, writeReg_bufw_idle (s := { s with resp := some .ack }) k v hl,
      writeBufWord_eq]
  · rw [read, if_pos ⟨by omega, by omega, hnb⟩, Nat.add_sub_cancel_left]
  · exact (read j).trans (if_neg fun ⟨h1, h2, h3⟩ => by simp only at h3; omega)
  · rw [stepOn_writeTo_reg v hok hr (by norm_num) (by norm_num) (r := .bufLen) rfl nofun,
      writeReg_bufLen_idle (s := { s with resp := some .ack }) v hl]

/-- Settles O13: the word read and the word replaced, bit by bit. -/
theorem integerWindowHoldsTheBitsOfInt : Obligations.IntegerWindowHoldsTheBitsOfInt := by
  intro s j v hok hr hl _ hj
  have hj256 := lt_of_lt_niw hok hj
  have hreg := busReg_intw hj256
  have ho : 0x400 + 4 * j < 0x800 := by omega
  have h4 : (0x400 + 4 * j) % 4 = 0 := by omega
  refine ⟨⟨s.intWord j, stepOn_readFrom_reg hok hr ho h4 hreg (.inl hl), fun p hp => getLsbD_intWord s j hp⟩,
    ⟨replaceWord s.int j v s.cfg.intBits, ?_, replaceWord_lt _ _ _ _, fun p hp => ?_⟩⟩
  · rw [stepOn_writeTo_reg v hok hr ho h4 hreg nofun, writeReg_intw_idle (s := { s with resp := some .ack }) j v hl,
      State.writeIntWord]
  · rw [testBit_replaceWord, decide_eq_true hp, Bool.true_and]

/-! ## Accesses that change nothing (R35, R43) -/

/-- A read of another width or alignment gets a bus error (R35). -/
theorem hostAccess_read_busError {s : State} {addr bytes : Nat} (hw : s.inWindow addr = true)
    (ha : s.aligned addr bytes = false) :
    s.hostAccess (.read addr bytes) = .next { s with resp := some .busError } := by
  simp only [State.hostAccess, hw, ha, if_true, Bool.true_eq_false, if_false]

/-- A write of another width or alignment gets a bus error (R35). -/
theorem hostAccess_write_busError {s : State} {addr bytes : Nat} (v : Word) (hw : s.inWindow addr = true)
    (ha : s.aligned addr bytes = false) :
    s.hostAccess (.write addr bytes v) = .next { s with resp := some .busError } := by
  simp only [State.hostAccess, hw, ha, if_true, Bool.true_eq_false, if_false]

/-- A 32-bit aligned read goes to the register the map names. -/
theorem hostAccess_read_aligned {s : State} {addr bytes : Nat} (hw : s.inWindow addr = true)
    (ha : s.aligned addr bytes = true) :
    s.hostAccess (.read addr bytes) = .next (s.readAccess (busReg (addr - s.cfg.base))) := by
  simp only [State.hostAccess, hw, ha, Bool.true_eq_false, if_false]

/-- An access is not aligned when its width is not 4 or its offset is no multiple of 4. -/
theorem not_aligned_off (s : State) {off bytes : Nat} (h : bytes ≠ 4 ∨ off % 4 ≠ 0) :
    s.aligned (s.cfg.base + off) bytes = false := by
  rw [State.aligned, Nat.add_sub_cancel_left, Bool.and_eq_false_iff, decide_eq_false_iff_not, decide_eq_false_iff_not]
  exact h

/-- Settles O10: an access in the window that is not aligned is a bus error, whatever the state of the block. -/
theorem otherAccessesAreBusErrors : Obligations.OtherAccessesAreBusErrors := by
  intro s off bytes v hok _ ho h
  have hw := inWindow_off s ho
  have ha := not_aligned_off s h
  exact ⟨(stepOn_eq _ _ hok).trans (hostAccess_read_busError hw ha),
    (stepOn_eq _ _ hok).trans (hostAccess_write_busError v hw ha)⟩

/-- A read that is answered is a bus error or the read of a register. -/
theorem hostAccess_read_cases {s t : State} {addr bytes : Nat} (h : s.hostAccess (.read addr bytes) = .next t) :
    s.inWindow addr = true ∧ ((s.aligned addr bytes = false ∧ t = { s with resp := some .busError }) ∨
      (s.aligned addr bytes = true ∧ t = s.readAccess (busReg (addr - s.cfg.base)))) := by
  cases hw : s.inWindow addr with
  | false => simp only [State.hostAccess, hw, if_true] at h; cases h
  | true =>
    refine ⟨rfl, ?_⟩
    cases ha : s.aligned addr bytes with
    | false => cases (hostAccess_read_busError hw ha).symm.trans h; exact .inl ⟨rfl, rfl⟩
    | true => cases (hostAccess_read_aligned hw ha).symm.trans h; exact .inr ⟨rfl, rfl⟩

/-- A read does not look at the response of the access before it. -/
theorem readAccess_resp (s : State) (x : Option BusResp) (r : BusReg) :
    ({ s with resp := x } : State).readAccess r = s.readAccess r := by
  cases r <;> rfl

/-- A read of an idle block, or of a register that is no data window, writes the response only. -/
theorem readAccess_writes_resp {s : State} {r : BusReg} (h : s.latch = none ∨ r.isWindow = false) :
    ∃ x, s.readAccess r = { s with resp := x } := by
  rcases Bool.eq_false_or_eq_true s.rstN with hr | hr
  · exact ⟨_, readAccess_reg hr h⟩
  · exact ⟨_, readAccess_reset r hr⟩

/-- Such a read leaves a state that the same read leaves alone. -/
theorem readAccess_idempotent {s : State} {r : BusReg} (h : s.latch = none ∨ r.isWindow = false) :
    (s.readAccess r).readAccess r = s.readAccess r := by
  obtain ⟨x, e⟩ := readAccess_writes_resp h
  calc (s.readAccess r).readAccess r = ({ s with resp := x } : State).readAccess r := by rw [e]
    _ = s.readAccess r := readAccess_resp s x r

/-- A read that is answered writes the response and the count of free values only (R43). -/
theorem hostAccess_read_frame {s t : State} {addr bytes : Nat} (h : s.hostAccess (.read addr bytes) = .next t) :
    t = { s with resp := t.resp, free := t.free } := by
  obtain ⟨-, ⟨-, rfl⟩ | ⟨-, rfl⟩⟩ := hostAccess_read_cases h
  · rfl
  · exact readAccess_quiet s _

/-- The same read again answers the same, but for a data window while a command is in flight (R43). -/
theorem hostAccess_read_repeats {s t : State} {addr bytes : Nat} (h : s.hostAccess (.read addr bytes) = .next t)
    (hq : ¬ (s.latch ≠ none ∧ s.cfg.base + 0x100 ≤ addr)) : t.hostAccess (.read addr bytes) = .next t := by
  have hframe := hostAccess_read_frame h
  have hcfg : t.cfg = s.cfg := by rw [hframe]
  obtain ⟨hw, ⟨ha, ht⟩ | ⟨ha, ht⟩⟩ := hostAccess_read_cases h
  · rw [ht]
    exact hostAccess_read_busError (s := { s with resp := some .busError }) hw ha
  · have hwindow : s.latch = none ∨ (busReg (addr - s.cfg.base)).isWindow = false := by
      by_cases hl : s.latch = none
      · exact .inl hl
      · have hlow : ¬ s.cfg.base + 0x100 ≤ addr := fun hb => hq ⟨hl, hb⟩
        exact .inr (busReg_not_window (by omega))
    have hwt : t.inWindow addr = true := by rw [hframe]; exact hw
    have hat : t.aligned addr bytes = true := by rw [hframe]; exact ha
    rw [hostAccess_read_aligned hwt hat, hcfg, ht, readAccess_idempotent hwindow]

/-- Settles O17: a read writes no state of the block, so the same read finds what the first one found. -/
theorem readsHaveNoSideEffects : Obligations.ReadsHaveNoSideEffects := by
  intro s t addr bytes hstep
  obtain ⟨hok, -⟩ := step_cases hstep
  have h : s.hostAccess (.read addr bytes) = .next t := (stepOn_eq s _ hok).symm.trans hstep
  have hframe := hostAccess_read_frame h
  refine ⟨hframe, fun hq => ⟨t, ?_, rfl⟩⟩
  have hokt : t.cfg.ok = true := by rw [hframe]; exact hok
  exact (stepOn_eq t _ hokt).trans (hostAccess_read_repeats h hq)

/-! ## The answers of the randomness source (R47) -/

/-- Out of reset, an answer to the outstanding request of the length it must have, or `FAIL`, is kept as the draw. -/
theorem rngAnswer_kept {s : State} {a : RngAnswer} (hr : s.rstN = true) (hq : s.rngReq = true)
    (ha : ∀ b, a = .bytes b → b.length = s.cfg.nb) :
    s.rngAnswer a = .next { s with draw := some a, rngReq := false } := by
  unfold State.rngAnswer
  rw [if_neg (by simp [hr, hq])]
  cases a with
  | fail => rfl
  | bytes b => exact if_pos (ha b rfl)

/-- An answer of another length to the outstanding request stops the machine (log 9). -/
theorem rngAnswer_malformed {s : State} {b : List Byte} (hr : s.rstN = true) (hq : s.rngReq = true)
    (hb : b.length ≠ s.cfg.nb) : s.rngAnswer (.bytes b) = .fault .malformedAnswer := by
  unfold State.rngAnswer
  rw [if_neg (by simp [hr, hq])]
  exact if_neg hb

/-- Without a request an answer is ignored. -/
theorem rngAnswer_unasked {s : State} (a : RngAnswer) (hq : s.rngReq = false) : s.rngAnswer a = .next s := by
  unfold State.rngAnswer
  rw [if_pos (by simp [hq])]

/-- Out of reset, a turn of the core is a turn of the command in flight. -/
theorem coreTurn_turn {s : State} {i : Instr} {o : Operands} (hr : s.rstN = true)
    (hl : s.latch = some { instr := i, src := o }) : s.coreTurn = .next (turnOf i o s) := by
  rw [State.coreTurn, if_neg (by simp [hr])]
  simp only [hl, exec_turn i hl]

/-- Settles O48: each kind of answer, and the turn of a sampling that has none. -/
theorem answersGoToTheOutstandingRequest : Obligations.AnswersGoToTheOutstandingRequest := by
  intro s b a hok hr
  simp only [stepOn_eq s _ hok, State.perform]
  refine ⟨fun hq hb => rngAnswer_kept hr hq ?_, fun hq => rngAnswer_kept hr hq nofun, rngAnswer_malformed hr,
    rngAnswer_unasked a, fun rd o hl hd => ?_⟩
  · rintro _ ⟨⟩
    exact hb
  · rw [coreTurn_turn hr hl, turnOf, turnSampling_wait rd hd]

end Sys2Proof.Machine
end

section
/-! PROOFS. The encoding chapter (spec/30_encoding.md): each row of the opcode map reads the fields its format uses, so a
word fits a row exactly when it has the row's opcode and legal fields, and it is then the word that spells the command
the row builds. -/

namespace Sys2Proof

/-! ## The legal fields (R57) -/

/-- The 20 opcodes of R56, in its order. -/
def assignedOpcodes : List Nat :=
  [0x01, 0x02, 0x03, 0x04, 0x05, 0x08, 0x09, 0x0A, 0x0B, 0x0C, 0x10, 0x11, 0x12, 0x13, 0x18, 0x19, 0x1A, 0x1B, 0x20, 0x21]

theorem RawCmd.assigned_iff (r : RawCmd) : r.assigned = true ↔ r.op.toNat ∈ assignedOpcodes := by
  unfold RawCmd.assigned
  generalize r.op = op
  revert op
  decide

theorem RawCmd.reservedZero_iff (r : RawCmd) : r.reservedZero = true ↔ r.reserved = 0 := by simp [RawCmd.reservedZero]

/-- With an assigned opcode, the fields are legal exactly when the reserved bits and the unused fields are 0. -/
theorem RawCmd.wellFormed_iff {r : RawCmd} {f : Format} (hf : Format.ofOpcode r.op = some f) : r.wellFormed = true ↔
    (f.usesRd = true ∨ r.rd = 0) ∧ (f.usesRs1 = true ∨ r.rs1 = 0) ∧ (f.usesRs2 = true ∨ r.rs2 = 0) ∧
      (f.usesCi = true ∨ r.ci = 0) ∧ r.reserved = 0 := by
  simp only [RawCmd.wellFormed, RawCmd.assigned, RawCmd.unusedZero, hf, Option.isSome_some, Bool.true_and,
    Bool.and_eq_true, Bool.or_eq_true, beq_iff_eq, RawCmd.reservedZero_iff]
  rw [and_comm]
  simp only [and_assoc]

/-- The third clause of R57: a field the opcode's format does not use is not 0. -/
theorem RawCmd.unusedZero_eq_false_iff (r : RawCmd) : r.unusedZero = false ↔
    ∃ f, Format.ofOpcode r.op = some f ∧
      ((f.usesRd = false ∧ r.rd ≠ 0) ∨ (f.usesRs1 = false ∧ r.rs1 ≠ 0) ∨ (f.usesRs2 = false ∧ r.rs2 ≠ 0) ∨
        (f.usesCi = false ∧ r.ci ≠ 0)) := by
  cases hf : Format.ofOpcode r.op with
  | none => simp [RawCmd.unusedZero, hf]
  | some f =>
    simp only [RawCmd.unusedZero, hf, Bool.and_eq_false_iff, Bool.or_eq_false_iff, beq_eq_false_iff_ne, or_assoc,
      Option.some.injEq, exists_eq_left']

/-- The fields are illegal exactly when one of the three clauses of R57 holds. -/
theorem RawCmd.wellFormed_eq_false_iff (r : RawCmd) : r.wellFormed = false ↔
    r.assigned = false ∨ r.reservedZero = false ∨ r.unusedZero = false := by
  simp only [RawCmd.wellFormed, Bool.and_eq_false_iff, or_assoc]

/-- The fields that spell a command are legal: R54 leaves no operand out. -/
theorem Instr.raw_wellFormed (i : Instr) : i.raw.wellFormed = true := by
  cases i <;> rfl

/-! ## The rows of the opcode map (R56) -/

/-- The opcode of a row: bits 7:0 of its pattern. -/
def Row.opcode (r : Row) : BitVec 8 := r.pattern.extractLsb' 0 8

/-- An opcode with the fields of `w` that format `f` uses; every other field is 0 (R53). -/
def Format.spell (f : Format) (op : BitVec 8) (w : Word) : RawCmd :=
  { op := op
    rd := if f.usesRd then FReg.field (fieldRd w) else 0
    rs1 := if f.usesRs1 then FReg.field (fieldRs1 w) else 0
    rs2 := if f.usesRs2 then FReg.field (fieldRs2 w) else 0
    ci := if f.usesCi then BitVec.ofBool (fieldCi w) else 0
    reserved := 0 }

/-- A row reads the fields of format `f`: its opcode has that format in R56, its mask is the format's, its pattern is
the opcode with every field 0, and the command it builds is spelled by the opcode and the fields the format uses. -/
structure Row.Reads (r : Row) (f : Format) : Prop where
  format : Format.ofOpcode r.opcode = some f
  mask : r.mask = f.mask
  pattern : r.pattern = RawCmd.pack { op := r.opcode, rd := 0, rs1 := 0, rs2 := 0, ci := 0, reserved := 0 }
  raw : ∀ w, (r.build w).raw = f.spell r.opcode w

/-- Every row of R56 reads the fields of one format. -/
theorem Row.exists_reads : ∀ r ∈ rows, ∃ f, r.Reads f := by
  simp only [rows, rowsCodecCompare, rowsFieldEngine, List.forall_mem_append, List.forall_mem_cons]
  refine ⟨⟨?_, ?_, ?_, ?_, ?_, ?_, ?_, ?_, ?_, ?_, List.forall_mem_nil _⟩,
    ?_, ?_, ?_, ?_, ?_, ?_, ?_, ?_, ?_, ?_, List.forall_mem_nil _⟩
  all_goals exact ⟨_, rfl, rfl, rfl, fun _ => rfl⟩

/-- The opcodes of the rows are those of R56, in its order. -/
theorem rows_opcodes : (rows.map Row.opcode).map BitVec.toNat = assignedOpcodes := rfl

/-- Every assigned opcode has a row. -/
theorem RawCmd.exists_row {r : RawCmd} (h : r.assigned = true) : ∃ q ∈ rows, q.opcode = r.op := by
  rw [RawCmd.assigned_iff, ← rows_opcodes, List.mem_map_of_injective BitVec.toNat_injective, List.mem_map] at h
  exact h

/-- No two rows have the same opcode (R62). -/
theorem rows_opcode_nodup : (rows.map Row.opcode).Nodup := by
  have hnat : ((rows.map Row.opcode).map BitVec.toNat).Nodup := by rw [rows_opcodes]; decide
  exact hnat.of_map _

/-! ## A word that fits a row (R53, R62) -/

/-- A word fits a row exactly when it has the row's opcode and its fields are legal. -/
theorem Row.fits_iff {r : Row} (hr : r ∈ rows) (w : Word) : w &&& r.mask = r.pattern ↔
    (RawCmd.ofWord w).op = r.opcode ∧ (RawCmd.ofWord w).wellFormed = true := by
  obtain ⟨f, h⟩ := Row.exists_reads r hr
  have hpack := RawCmd.pack_matches (RawCmd.ofWord w) f r.opcode
  rw [RawCmd.pack_ofWord, ← h.mask, ← h.pattern] at hpack
  rw [hpack]
  refine and_congr_right fun ho => ?_
  have hf : Format.ofOpcode (RawCmd.ofWord w).op = some f := by rw [ho, h.format]
  rw [RawCmd.wellFormed_iff hf]

/-- A word fits some row exactly when its fields are legal. -/
theorem exists_fits_iff (w : Word) : (∃ r ∈ rows, w &&& r.mask = r.pattern) ↔ (RawCmd.ofWord w).wellFormed = true := by
  constructor
  · rintro ⟨r, hr, hw⟩
    exact ((Row.fits_iff hr w).1 hw).2
  · intro hw
    have ha : (RawCmd.ofWord w).assigned = true := by
      simp only [RawCmd.wellFormed, Bool.and_eq_true] at hw
      obtain ⟨⟨ha, -⟩, -⟩ := hw
      exact ha
    obtain ⟨r, hr, ho⟩ := RawCmd.exists_row ha
    exact ⟨r, hr, (Row.fits_iff hr w).2 ⟨ho.symm, hw⟩⟩

/-- No two rows fit one word, because their opcodes differ (R62). -/
theorem Row.eq_of_fits {r q : Row} {w : Word} (hr : r ∈ rows) (hq : q ∈ rows) (hwr : w &&& r.mask = r.pattern)
    (hwq : w &&& q.mask = q.pattern) : r = q := by
  have ho : r.opcode = q.opcode := ((Row.fits_iff hr w).1 hwr).1.symm.trans ((Row.fits_iff hq w).1 hwq).1
  exact List.inj_on_of_nodup_map rows_opcode_nodup hr hq ho

/-- A word decodes to what the row it fits builds (R62). -/
theorem decode_of_fits {r : Row} {w : Word} (hr : r ∈ rows) (hw : w &&& r.mask = r.pattern) :
    decode w = some (r.build w) := by
  cases hd : decode w with
  | none => exact absurd hw ((decode_none_iff w).1 hd r hr)
  | some i =>
    obtain ⟨q, hq, hwq, rfl⟩ := decode_some hd
    rw [Row.eq_of_fits hr hq hw hwq]

theorem decode_eq_some_iff (w : Word) (i : Instr) :
    decode w = some i ↔ ∃ r ∈ rows, w &&& r.mask = r.pattern ∧ r.build w = i := by
  constructor
  · exact decode_some
  · rintro ⟨r, hr, hw, rfl⟩
    exact decode_of_fits hr hw

/-- A word is illegal exactly when its fields are (R57). -/
theorem decode_eq_none_iff_wellFormed (w : Word) : decode w = none ↔ (RawCmd.ofWord w).wellFormed = false := by
  rw [decode_none_iff, ← Bool.not_eq_true, ← exists_fits_iff]
  simp only [not_exists, not_and]

/-- Settles O5: a row fits the words of its opcode with legal fields, and no two rows share an opcode. -/
theorem decodingPicksTheOneRow : Obligations.DecodingPicksTheOneRow := by
  have hopcode : rows.Pairwise (fun r q => r.opcode ≠ q.opcode) := List.pairwise_map.1 rows_opcode_nodup
  refine ⟨decode_eq_some_iff, decode_none_iff, ?_, hopcode, by decide⟩
  refine hopcode.imp_of_mem fun {r q} hr hq hne w hw => hne ?_
  rw [Row.eq_of_fits hr hq hw.1 hw.2]

/-! ## The round trips (R53) -/

theorem field_fieldRd (w : Word) : FReg.field (fieldRd w) = (RawCmd.ofWord w).rd := rfl

theorem field_fieldRs1 (w : Word) : FReg.field (fieldRs1 w) = (RawCmd.ofWord w).rs1 := rfl

theorem field_fieldRs2 (w : Word) : FReg.field (fieldRs2 w) = (RawCmd.ofWord w).rs2 := rfl

theorem ofBool_fieldCi (w : Word) : BitVec.ofBool (fieldCi w) = (RawCmd.ofWord w).ci := by
  apply BitVec.eq_of_getLsbD_eq
  intro k hk
  obtain rfl : k = 0 := by omega
  simp [fieldCi, RawCmd.ofWord]

/-- The fields a format uses are all the fields of a word whose fields are legal. -/
theorem Format.spell_of_wellFormed {f : Format} {w : Word} (hf : Format.ofOpcode (RawCmd.ofWord w).op = some f)
    (hw : (RawCmd.ofWord w).wellFormed = true) : f.spell (RawCmd.ofWord w).op w = RawCmd.ofWord w := by
  obtain ⟨hrd, hrs1, hrs2, hci, hres⟩ := (RawCmd.wellFormed_iff hf).1 hw
  have hused {n : Nat} {used : Bool} {x : BitVec n} (h : used = true ∨ x = 0) : (if used then x else 0) = x := by
    obtain rfl | rfl := h <;> simp
  simp only [Format.spell, field_fieldRd, field_fieldRs1, field_fieldRs2, ofBool_fieldCi, hused hrd, hused hrs1,
    hused hrs2, hused hci]
  rw [← hres]

/-- The command a row builds from a word that fits it is spelled by that word. -/
theorem encode_build {r : Row} {w : Word} (hr : r ∈ rows) (hw : w &&& r.mask = r.pattern) : encode (r.build w) = w := by
  obtain ⟨f, h⟩ := Row.exists_reads r hr
  obtain ⟨ho, hwf⟩ := (Row.fits_iff hr w).1 hw
  calc encode (r.build w) = (f.spell r.opcode w).pack := congrArg RawCmd.pack (h.raw w)
    _ = (RawCmd.ofWord w).pack := by rw [← ho, Format.spell_of_wellFormed (ho ▸ h.format) hwf]
    _ = w := RawCmd.pack_ofWord w

/-- Settles O3: the word fits the row that built the command. -/
theorem encodeOfDecodeIsIdentity : Obligations.EncodeOfDecodeIsIdentity := by
  intro w i hd
  obtain ⟨r, hr, hw, rfl⟩ := decode_some hd
  exact encode_build hr hw

theorem fieldRd_encode (i : Instr) : fieldRd (encode i) = i.raw.rd.toFin :=
  congrArg (fun r : RawCmd => r.rd.toFin) (RawCmd.ofWord_pack i.raw)

theorem fieldRs1_encode (i : Instr) : fieldRs1 (encode i) = i.raw.rs1.toFin :=
  congrArg (fun r : RawCmd => r.rs1.toFin) (RawCmd.ofWord_pack i.raw)

theorem fieldRs2_encode (i : Instr) : fieldRs2 (encode i) = i.raw.rs2.toFin :=
  congrArg (fun r : RawCmd => r.rs2.toFin) (RawCmd.ofWord_pack i.raw)

theorem fieldCi_encode (i : Instr) : fieldCi (encode i) = i.raw.ci.getLsbD 0 :=
  RawCmd.getLsbD_pack i.raw 20

/-- The row of a command's opcode builds the command from the word that spells it: each field it reads there is the
operand the command's fields hold. -/
theorem exists_row_build_encode (i : Instr) : ∃ r ∈ rows, r.opcode = i.raw.op ∧ r.build (encode i) = i := by
  cases i <;>
    simp [rows, rowsCodecCompare, rowsFieldEngine, Row.opcode, fieldRd_encode, fieldRs1_encode, fieldRs2_encode,
      fieldCi_encode, Instr.raw, FReg.field]

/-- Settles O2: the fields that spell a command are legal, so its word fits the row of its opcode, which builds it. -/
theorem decodeOfEncodeIsIdentity : Obligations.DecodeOfEncodeIsIdentity := by
  intro i
  have hfields : RawCmd.ofWord (encode i) = i.raw := RawCmd.ofWord_pack _
  obtain ⟨r, hr, ho, hb⟩ := exists_row_build_encode i
  have hfits : encode i &&& r.mask = r.pattern := by
    rw [Row.fits_iff hr, hfields]
    exact ⟨ho.symm, i.raw_wellFormed⟩
  rw [decode_of_fits hr hfits, hb]

/-! ## The illegal words and the spec's vectors (R57, R60, R108) -/

namespace Machine

/-- Out of reset, a `CMD` write is acknowledged and its word issued. -/
theorem stepOn_command {s : State} (v : Word) (hok : s.cfg.ok = true) (hr : s.rstN = true) :
    s.stepOn (s.writeTo 0x018 v) = ({ s with resp := some .ack } : State).issue v :=
  (stepOn_writeTo s (off := 0x018) v hok (by norm_num) (by norm_num)).trans (writeAccess_cmd v hr)

end Machine

open Machine

/-- Settles O4: a word is illegal exactly when its fields are, and an idle block only reports it. -/
theorem illegalWordsAreExactlyThese : Obligations.IllegalWordsAreExactlyThese := by
  refine ⟨fun w => ?_, by decide, by decide, fun s w hok hr hl hd => ?_⟩
  · rw [decode_eq_none_iff_wellFormed, RawCmd.wellFormed_eq_false_iff, RawCmd.unusedZero_eq_false_iff,
      ← Bool.not_eq_true, RawCmd.assigned_iff, ← Bool.not_eq_true, RawCmd.reservedZero_iff]
    rfl
  · rw [stepOn_command w hok hr]
    exact issue_illegal hl hd

/-- Settles O1: each word is decoded by evaluation. -/
theorem specWordsDecode : Obligations.SpecWordsDecode := by
  unfold Obligations.SpecWordsDecode
  decide

/-! ## The pseudo-instructions (R61) -/

namespace Machine

/-- A register less itself is 0. -/
@[simp] theorem engSub_self (c : Config) (a : Nat) : engSub c a a = 0 := by simp [engSub]

/-- Settles O35: the three expansions complete at their first turn, which writes one register and no flag. -/
theorem pseudoInstructions : Obligations.PseudoInstructions := by
  intro fd fs s hl
  refine ⟨⟨_, runCommand_two _ hl rfl, rfl, rfl, rfl⟩, ⟨_, runCommand_two _ hl rfl, ?_, rfl, rfl⟩,
    ⟨_, runCommand_two _ hl rfl, rfl, rfl, rfl⟩⟩
  simp [turnOf, startOf, srcTwo]

end Machine

end Sys2Proof
end

section
/-! PROOFS. The codec chapter (spec/40_codec.md): the words of a row of the opcode map, what a command that meets no
other one can change, and the codec commands at accept and at completion. -/

namespace Sys2Proof

/-! ## The words of a row (R53, R57, R110) -/

/-- A row builds commands of its own opcode, so no two rows build the same command. -/
theorem Row.eq_of_build {r q : Row} (hr : r ∈ rows) (hq : q ∈ rows) {v w : Word} (h : r.build v = q.build w) :
    r = q := by
  obtain ⟨f, hf⟩ := Row.exists_reads r hr
  obtain ⟨g, hg⟩ := Row.exists_reads q hq
  have ho : r.opcode = q.opcode := by
    calc r.opcode = (r.build v).raw.op := by rw [hf.raw]; rfl
      _ = (q.build w).raw.op := by rw [h]
      _ = q.opcode := by rw [hg.raw]; rfl
  exact List.inj_on_of_nodup_map rows_opcode_nodup hr hq ho

/-- Exactly the words that fit a row decode to what the row builds from them. -/
theorem Row.decode_eq_build_iff {r : Row} (hr : r ∈ rows) (w : Word) :
    decode w = some (r.build w) ↔ w &&& r.mask = r.pattern := by
  refine ⟨fun h => ?_, decode_of_fits hr⟩
  obtain ⟨q, hq, hw, hb⟩ := decode_some h
  rwa [← Row.eq_of_build hq hr hb]

/-- A word with the opcode of a row that does not fit the row is illegal. -/
theorem Row.decode_eq_none {r : Row} (hr : r ∈ rows) {w : Word} (ho : w.extractLsb' 0 8 = r.opcode)
    (hw : w &&& r.mask ≠ r.pattern) : decode w = none := by
  refine (decode_none_iff w).2 fun q hq hwq => hw ?_
  have hop : q.opcode = r.opcode := ((Row.fits_iff hq w).1 hwq).1.symm.trans ho
  rwa [← List.inj_on_of_nodup_map rows_opcode_nodup hq hr hop]

/-- Every row of R56 is spelled by the words that fit it. -/
theorem Row.spelled {r : Row} (hr : r ∈ rows) : Machine.Spelled r.pattern r.mask r.build := by
  refine fun w => ⟨Row.decode_eq_build_iff hr w, fun s hok hrst hl _ => ?_, fun s hok hrst hl ho hw => ?_⟩
  · rw [Machine.stepOn_writeTo s w hok (by norm_num) (by norm_num)]
    exact Machine.writeAccess_busy w hrst hl (.inl rfl)
  · rw [Machine.stepOn_command w hok hrst]
    exact Machine.issue_illegal hl (Row.decode_eq_none hr ho hw)

/-- The rows of R56 by their place in its table. -/
theorem spelled_row (k : Fin 20) : Machine.Spelled rows[k].pattern rows[k].mask rows[k].build :=
  Row.spelled (List.getElem_mem k.isLt)

/-- The register a command names as its destination (R53). -/
def Instr.dest : Instr → Option FReg
  | .fromBe rd | .fromLe rd | .fromUint rd | .dbl rd _ | .sqr rd _ | .seli rd _ _ _ | .selr rd _ _ | .add rd _ _
  | .sub rd _ _ | .mul rd _ _ | .neg rd _ | .inv rd _ | .rand rd => some rd
  | .toBe _ | .toLe _ | .isZero _ | .eq _ _ | .isOdd _ | .gt _ _ | .lt _ _ => none

namespace Machine

/-! ## What a command that meets no other one can change -/

/-- From `s` to `t`, command `i` is started or takes a turn. -/
def Advances (i : Instr) (s t : State) : Prop := t = startOf i s ∨ ∃ o, t = turnOf i o s

/-- Where no other command is in flight, `exec` starts its command or gives it a turn. -/
theorem exec_advances {i : Instr} {s t : State} (hlatch : ∀ l, s.latch = some l → l.instr = i)
    (h : exec i s = .next t) : Advances i s t := by
  rcases exec_cases h with ⟨-, ht⟩ | ⟨o, -, ht⟩ | ⟨l, hl, hne, -⟩
  · exact .inl ht
  · exact .inr ⟨o, ht⟩
  · exact absurd (hlatch l hl) hne

/-- A start writes no register and not `BUF` or `BUF_LEN`: that is left to the turns (R112). -/
theorem StartCase.frame {i : Instr} {s t : State} (hc : StartCase i s t) :
    t.fe = s.fe ∧ t.buf = s.buf ∧ t.bufLen = s.bufLen := by
  cases hc <;> exact ⟨rfl, rfl, rfl⟩

/-- No start writes `INT`, `ERR_ILLEGAL`, `ERR_BUSY` or `IE`. -/
theorem StartCase.common {i : Instr} {s t : State} (hc : StartCase i s t) :
    t.int = s.int ∧ t.errIllegal = s.errIllegal ∧ t.errBusy = s.errBusy ∧ t.ie = s.ie := by
  cases hc <;> exact ⟨rfl, rfl, rfl, rfl⟩

/-- No turn writes these either. -/
theorem TurnCase.common {s t : State} (hc : TurnCase s t) :
    t.int = s.int ∧ t.errIllegal = s.errIllegal ∧ t.errBusy = s.errBusy ∧ t.ie = s.ie := by
  cases hc <;> exact ⟨rfl, rfl, rfl, rfl⟩

theorem TurnCase.errLen {s t : State} (hc : TurnCase s t) : t.errLen = s.errLen := by cases hc <;> rfl

/-- No command writes `INT`, `ERR_ILLEGAL`, `ERR_BUSY`, `IE` or the configuration. -/
theorem Advances.common {i : Instr} {s t : State} (h : Advances i s t) :
    (t.int = s.int ∧ t.errIllegal = s.errIllegal ∧ t.errBusy = s.errBusy ∧ t.ie = s.ie) ∧ t.cfg = s.cfg := by
  rcases h with rfl | ⟨o, rfl⟩
  · exact ⟨(startOf_cases i s).common, (startOf_cases i s).cfg⟩
  · exact ⟨(turnOf_cases i o s).common, (turnOf_cases i o s).cfg⟩

/-- A turn writes no register but the destination. -/
theorem turnOf_fe (i : Instr) (o : Operands) (s : State) :
    (turnOf i o s).fe = s.fe ∨ ∃ rd v, i.dest = some rd ∧ (turnOf i o s).fe = (s.setFE rd v).fe := by
  cases i with
  | toBe | toLe | isZero | eq | isOdd | gt | lt => exact .inl rfl
  | inv rd rs1 =>
    rcases turnInversion_cases rd o s with ⟨-, e⟩ | e <;> rw [turnOf, e]
    · exact .inl (iterate_fe s)
    · exact .inr ⟨rd, _, rfl, rfl⟩
  | rand rd =>
    rcases turnSampling_cases rd s with e | e | ⟨x, e⟩ | e <;> rw [turnOf, e]
    · exact .inl rfl
    · exact .inl rfl
    · exact .inr ⟨rd, _, rfl, rfl⟩
    · exact .inl rfl
  | _ => exact .inr ⟨_, _, rfl, rfl⟩

/-- A command writes no register but its destination. -/
theorem Advances.feAt {i : Instr} {s t : State} (h : Advances i s t) {r : FReg} (hr : i.dest ≠ some r) :
    t.feAt r = s.feAt r := by
  rcases h with rfl | ⟨o, rfl⟩
  · exact feAt_congr (startOf_cases i s).frame.1 r
  · rcases turnOf_fe i o s with e | ⟨rd, v, hd, e⟩
    · exact feAt_congr e r
    · have hne : r ≠ rd := fun he => hr (by rw [hd, he])
      exact (feAt_congr e r).trans (feAt_setFE_other s v hne)

/-- Only `TO_BE` and `TO_LE` write `BUF` and `BUF_LEN`. -/
theorem Advances.buffer {i : Instr} {s t : State} (h : Advances i s t)
    (hbe : ∀ r, i ≠ .toBe r) (hle : ∀ r, i ≠ .toLe r) :
    t.buf = s.buf ∧ t.bufLen = s.bufLen := by
  rcases h with rfl | ⟨o, rfl⟩
  · obtain ⟨-, hbuf, hlen⟩ := (startOf_cases i s).frame
    exact ⟨hbuf, hlen⟩
  cases i with
  | toBe r => exact absurd rfl (hbe r)
  | toLe r => exact absurd rfl (hle r)
  | inv rd rs1 =>
    rcases turnInversion_cases rd o s with ⟨-, e⟩ | e <;> rw [turnOf, e]
    · exact ⟨iterate_buf s, iterate_bufLen s⟩
    · exact ⟨rfl, rfl⟩
  | rand rd => rcases turnSampling_cases rd s with e | e | ⟨x, e⟩ | e <;> rw [turnOf, e] <;> exact ⟨rfl, rfl⟩
  | _ => exact ⟨rfl, rfl⟩

/-- Only a compare writes `RESULT` (R23). -/
theorem Advances.result {i : Instr} {s t : State} (h : Advances i s t)
    (hi : ¬ ∃ rs1, i = .isZero rs1 ∨ i = .isOdd rs1 ∨ ∃ rs2, i = .eq rs1 rs2 ∨ i = .gt rs1 rs2 ∨ i = .lt rs1 rs2) :
    t.result = s.result := by
  rcases h with rfl | ⟨o, rfl⟩
  · exact (startOf_cases i s).result
  · by_contra hne
    obtain ⟨-, -, hw⟩ := turnOf_result_writer hne
    exact hi hw

/-- Only the length check of a decode command sets `ERR_LEN` (R109). -/
theorem Advances.errLen {i : Instr} {s t : State} (h : Advances i s t)
    (hbe : ∀ r, i ≠ .fromBe r) (hle : ∀ r, i ≠ .fromLe r) :
    t.errLen = s.errLen := by
  rcases h with rfl | ⟨o, rfl⟩
  · cases i with
    | fromBe r => exact absurd rfl (hbe r)
    | fromLe r => exact absurd rfl (hle r)
    | _ => rfl
  · exact (turnOf_cases i o s).errLen

/-- Only a `RAND` sets `ERR_RNG` (R102) and uses the sampler (R47). -/
theorem Advances.sampler {i : Instr} {s t : State} (h : Advances i s t) (hi : ∀ r, i ≠ .rand r) :
    t.errRng = s.errRng ∧ t.draw = s.draw ∧ t.rngReq = s.rngReq := by
  rcases h with rfl | ⟨o, rfl⟩
  · cases i with
    | rand r => exact absurd rfl (hi r)
    | fromBe | fromLe => rw [startOf]; split <;> exact ⟨rfl, rfl, rfl⟩
    | _ => exact ⟨rfl, rfl, rfl⟩
  · cases i with
    | rand r => exact absurd rfl (hi r)
    | inv rd rs1 =>
      rcases turnInversion_cases rd o s with ⟨-, e⟩ | e <;> rw [turnOf, e]
      · exact ⟨iterate_errRng s, iterate_draw s, iterate_rngReq s⟩
      · exact ⟨rfl, rfl, rfl⟩
    | _ => exact ⟨rfl, rfl, rfl⟩

/-- Only an `INV` uses the datapath (R29). -/
theorem Advances.datapath {i : Instr} {s t : State} (h : Advances i s t) (hi : ∀ rd rs1, i ≠ .inv rd rs1) :
    t.setA = s.setA ∧ t.setB = s.setB ∧ t.iter = s.iter := by
  rcases h with rfl | ⟨o, rfl⟩
  · cases i with
    | inv rd rs1 => exact absurd rfl (hi rd rs1)
    | fromBe | fromLe => rw [startOf]; split <;> exact ⟨rfl, rfl, rfl⟩
    | _ => exact ⟨rfl, rfl, rfl⟩
  · cases i with
    | inv rd rs1 => exact absurd rfl (hi rd rs1)
    | rand rd => rcases turnSampling_cases rd s with e | e | ⟨x, e⟩ | e <;> rw [turnOf, e] <;> exact ⟨rfl, rfl, rfl⟩
    | _ => exact ⟨rfl, rfl, rfl⟩

/-- Settles O39: what these five leave alone is written by other commands only, but for the parts a clause excepts. -/
theorem validCommandsFrame : Obligations.ValidCommandsFrame := by
  intro i s t rd rs1 hi hlatch h
  have ha := exec_advances hlatch h
  obtain ⟨⟨hint, hill, hbusy, hie⟩, hcfg⟩ := ha.common
  obtain ⟨hdest, hbe, hle, hcmp⟩ : i.dest = some rd ∧ (∀ r, i ≠ .toBe r) ∧ (∀ r, i ≠ .toLe r) ∧
      ¬ ∃ rs1, i = .isZero rs1 ∨ i = .isOdd rs1 ∨ ∃ rs2, i = .eq rs1 rs2 ∨ i = .gt rs1 rs2 ∨ i = .lt rs1 rs2 := by
    rcases hi with rfl | rfl | rfl | rfl | rfl <;> simp [Instr.dest]
  obtain ⟨hbuf, hlen⟩ := ha.buffer hbe hle
  have hfe (r : FReg) (hr : r ≠ rd) : t.feAt r = s.feAt r := ha.feAt (by simpa [hdest] using hr.symm)
  have herrLen : t.errLen = s.errLen ∨ i = .fromBe rd ∨ i = .fromLe rd := by
    refine or_iff_not_imp_right.2 fun hne => ha.errLen ?_ ?_ <;> rintro r rfl
    · exact hne (.inl (by simpa using hi))
    · exact hne (.inr (by simpa using hi))
  have hsampler : i = .rand rd ∨ t.errRng = s.errRng ∧ t.draw = s.draw ∧ t.rngReq = s.rngReq := by
    refine or_iff_not_imp_left.2 fun hne => ha.sampler ?_
    rintro r rfl
    exact hne (by simpa using hi)
  have hdata : i = .inv rd rs1 ∨ t.setA = s.setA ∧ t.setB = s.setB ∧ t.iter = s.iter := by
    refine or_iff_not_imp_left.2 fun hne => ha.datapath ?_
    rintro r q rfl
    exact hne (by simpa using hi)
  exact ⟨hfe, fun a => by rw [hbuf], hlen, hint, ha.result hcmp, hill, herrLen, hbusy,
    hsampler.symm.imp_left And.left, hie, hcfg, hdata, hsampler.imp_right And.right⟩

/-! ## Loading an integer (R63, R64, R67) -/

/-- What a load does to the state: the register is always written, and `VALID` says whether the integer is below `P`. -/
theorem loadInt_eq (rd : FReg) (x : Nat) (s : State) : loadInt rd x s =
    (s.setFE rd (if x < s.cfg.P then mont s.cfg x else 0)).setValid (decide (x < s.cfg.P)) := by
  by_cases hx : x < s.cfg.P
  · simp [loadInt, flagInRange, ctSelect, hx, Nat.mod_eq_of_lt hx]
  · simp [loadInt, flagInRange, ctSelect, hx]

/-- With the right length `FROM_BE` is accepted (R107). -/
theorem startOf_fromBe (rd : FReg) {s : State} (hn : s.bufLen.toNat = s.cfg.nb) :
    startOf (.fromBe rd) s = s.accept (.fromBe rd) (srcBuf s) := if_pos hn

/-- With the right length `FROM_LE` is accepted (R107). -/
theorem startOf_fromLe (rd : FReg) {s : State} (hn : s.bufLen.toNat = s.cfg.nb) :
    startOf (.fromLe rd) s = s.accept (.fromLe rd) (srcBuf s) := if_pos hn

/-- Settles O25: the length check decides the start, and the turn loads the integer of the latched bytes. -/
theorem decodeCommandsLoadTheBuffer : Obligations.DecodeCommandsLoadTheBuffer := by
  refine ⟨spelled_row 0, spelled_row 1, fun rd s => ⟨fun hl hn => ?_, fun hl hn => ?_, fun o hl => ?_, fun o hl => ?_⟩⟩
  · rw [exec_idle _ hl, exec_idle _ hl]
    exact ⟨congrArg _ (if_neg hn), congrArg _ (if_neg hn)⟩
  · rw [exec_idle _ hl, exec_idle _ hl, startOf_fromBe rd hn, startOf_fromLe rd hn]
    exact ⟨rfl, rfl⟩
  · rw [exec_turn _ hl, turnOf, loadInt_eq]; rfl
  · rw [exec_turn _ hl, turnOf, loadInt_eq]; rfl

/-- Settles O26: `INT` is latched whatever `BUF_LEN` is, and the turn loads it. -/
theorem fromUintLoadsTheInteger : Obligations.FromUintLoadsTheInteger := by
  refine ⟨spelled_row 4, fun rd s => ⟨fun hl => exec_idle _ hl, fun o hl => ?_⟩⟩
  rw [exec_turn _ hl, turnOf, loadInt_eq]; rfl

/-! ## Storing the bytes of an encoding (R65, R66) -/

/-- The stored bytes are the first `NB` of `BUF`. -/
theorem readBytes_storeBytes {s : State} {bs : List Byte} (hs : Memory.wf s.buf = true) (hb : bs.length = s.cfg.nb) :
    Memory.readBytes (storeBytes bs s).buf s.cfg.nb = bs := by
  rw [← hb]; exact Memory.readBytes_writeBytes hs bs

/-- Settles O27: the turn stores the bytes of the latched register's value. -/
theorem encodeCommandsStoreTheBytes : Obligations.EncodeCommandsStoreTheBytes := by
  refine ⟨spelled_row 2, spelled_row 3, fun rs1 s =>
    ⟨fun hl => ⟨exec_idle _ hl, exec_idle _ hl⟩, fun o hl hwf => ?_, fun o hl hwf => ?_⟩⟩
  · exact ⟨_, exec_turn _ hl, readBytes_storeBytes hwf (beBytes_length _ _)⟩
  · exact ⟨_, exec_turn _ hl, readBytes_storeBytes hwf (leBytes_length _ _)⟩

/-- An encode command is accepted, or stores `NB` bytes and completes. -/
theorem Advances.encode_cases {i : Instr} {s t : State} (h : Advances i s t) {rs1 : FReg}
    (hi : i = .toBe rs1 ∨ i = .toLe rs1) :
    (∃ o, t = s.accept i o) ∨ ∃ bs : List Byte, bs.length = s.cfg.nb ∧ t = (storeBytes bs s).complete := by
  rcases hi with rfl | rfl <;> rcases h with rfl | ⟨o, rfl⟩
  · exact .inl ⟨_, rfl⟩
  · exact .inr ⟨_, beBytes_length _ _, rfl⟩
  · exact .inl ⟨_, rfl⟩
  · exact .inr ⟨_, leBytes_length _ _, rfl⟩

/-- Settles O29: an accept writes the latch and `DONE`, and a completion the stored bytes, all below index `NB`. -/
theorem encodeCommandsFrame : Obligations.EncodeCommandsFrame := by
  intro i s t rs1 hi hlatch h
  rcases (exec_advances hlatch h).encode_cases hi with ⟨o, rfl⟩ | ⟨bs, hlen, rfl⟩
  · exact ⟨fun _ => rfl, fun _ _ => rfl, .inl rfl, rfl, rfl, rfl, rfl, rfl, rfl, rfl, rfl, rfl, rfl, rfl, rfl, rfl, rfl⟩
  · have hbuf (a : Nat) (ha : s.cfg.nb ≤ a) : Memory.read (Memory.writeBytes s.buf 0 bs) a = Memory.read s.buf a :=
      Memory.read_writeBytes_other bs s.buf 0 a (.inr (by omega))
    exact ⟨fun _ => rfl, hbuf, .inr rfl, rfl, rfl, rfl, rfl, rfl, rfl, rfl, rfl, rfl, rfl, rfl, rfl, rfl, rfl⟩

/-! ## The round trips (R68) -/

/-- The length a store leaves passes the length check of a decode command. -/
theorem toNat_ofNat_nb {c : Config} (h : c.fits = true) : (BitVec.ofNat 16 c.nb).toNat = c.nb := by
  obtain ⟨-, hnb, -⟩ := Config.fits_fields h
  exact toNat_of_field rfl (by omega)

/-- The big-endian encoding of the integer of some bytes of `BUF` is these bytes. -/
theorem beBytes_beInt_readBytes (m : Memory) (n : Nat) :
    beBytes n (beInt (Memory.readBytes m n)) = Memory.readBytes m n := by
  simpa using beBytes_beInt (Memory.readBytes m n)

/-- The little-endian encoding of the integer of some bytes of `BUF` is these bytes. -/
theorem leBytes_leInt_readBytes (m : Memory) (n : Nat) :
    leBytes n (leInt (Memory.readBytes m n)) = Memory.readBytes m n := by
  simpa using leBytes_leInt (Memory.readBytes m n)

@[simp] theorem thenRun_next (s : State) (i : Instr) (k : Nat) : Result.thenRun (.next s) i k = runCommand i k s := rfl

/-- `FROM_BE` as a whole: the integer of the bytes of `BUF` is loaded. -/
theorem runCommand_fromBe (rd : FReg) {s : State} (hl : s.latch = none) (hn : s.bufLen.toNat = s.cfg.nb) :
    runCommand (.fromBe rd) 2 s = .next (loadInt rd (beInt (Memory.readBytes s.buf s.cfg.nb))
      (s.accept (.fromBe rd) (srcBuf s))).complete := by
  have hs := startOf_fromBe rd hn
  rw [runCommand_two _ hl (congrArg State.latch hs), hs]
  rfl

/-- `FROM_LE` as a whole: the integer of the bytes of `BUF` is loaded. -/
theorem runCommand_fromLe (rd : FReg) {s : State} (hl : s.latch = none) (hn : s.bufLen.toNat = s.cfg.nb) :
    runCommand (.fromLe rd) 2 s = .next (loadInt rd (leInt (Memory.readBytes s.buf s.cfg.nb))
      (s.accept (.fromLe rd) (srcBuf s))).complete := by
  have hs := startOf_fromLe rd hn
  rw [runCommand_two _ hl (congrArg State.latch hs), hs]
  rfl

/-- `TO_BE` as a whole: the bytes of the register's value are stored. -/
theorem runCommand_toBe (rs1 : FReg) {s : State} (hl : s.latch = none) :
    runCommand (.toBe rs1) 2 s = .next (storeBytes (beBytes s.cfg.nb (canon s.cfg (s.feAt rs1)))
      (s.accept (.toBe rs1) (srcOne rs1 s))).complete :=
  runCommand_two _ (o := srcOne rs1 s) hl rfl

/-- `TO_LE` as a whole: the bytes of the register's value are stored. -/
theorem runCommand_toLe (rs1 : FReg) {s : State} (hl : s.latch = none) :
    runCommand (.toLe rs1) 2 s = .next (storeBytes (leBytes s.cfg.nb (canon s.cfg (s.feAt rs1)))
      (s.accept (.toLe rs1) (srcOne rs1 s))).complete :=
  runCommand_two _ (o := srcOne rs1 s) hl rfl

/-- Loading the canonical value of a reduced register gives the register back, and is valid. -/
theorem loadInt_canon {s : State} (h : s.cfg.fits = true) (rd : FReg) {m x : Nat} (hm : m < s.cfg.P)
    (hx : x = canon s.cfg m) : (loadInt rd x s).feAt rd = m ∧ (loadInt rd x s).valid = true := by
  have hlt : canon s.cfg m < s.cfg.P := canon_lt (Config.fits_pos h) m
  rw [loadInt_eq, hx]
  simp [hlt, mont_canon h hm]

/-- A register loaded with an integer below `P` has it as its canonical value. -/
theorem canon_feAt_loadInt {s : State} (h : s.cfg.fits = true) (rd : FReg) {x : Nat} (hx : x < s.cfg.P) :
    canon s.cfg ((loadInt rd x s).feAt rd) = x := by
  rw [loadInt_eq]
  simp [hx, canon_mont h hx]

/-- Settles O28: what is stored is what is read, its integer is the canonical value, and `mont` and `canon` are
inverse. -/
theorem encodeThenDecodeRoundTrips : Obligations.EncodeThenDecodeRoundTrips := by
  intro s i j hfits hl hred hwf
  have hcanon : canon s.cfg (s.feAt i) < 256 ^ s.cfg.nb :=
    (canon_lt (Config.fits_pos hfits) _).trans (Config.fits_lt_nb hfits)
  refine ⟨?_, ?_, fun hn hx => ?_, fun hn hx => ?_⟩
  · rw [runCommand_toBe i hl, thenRun_next]
    refine ⟨_, runCommand_fromBe j rfl (toNat_ofNat_nb hfits), loadInt_canon hfits j hred ?_⟩
    exact (congrArg beInt (readBytes_storeBytes hwf (beBytes_length _ _))).trans (beInt_beBytes hcanon)
  · rw [runCommand_toLe i hl, thenRun_next]
    refine ⟨_, runCommand_fromLe j rfl (toNat_ofNat_nb hfits), loadInt_canon hfits j hred ?_⟩
    exact (congrArg leInt (readBytes_storeBytes hwf (leBytes_length _ _))).trans (leInt_leBytes _ _ hcanon)
  · rw [runCommand_fromBe j hl hn, thenRun_next]
    refine ⟨_, runCommand_toBe j rfl, (readBytes_storeBytes hwf (beBytes_length _ _)).trans ?_⟩
    exact (congrArg (beBytes _) (canon_feAt_loadInt hfits j hx)).trans (beBytes_beInt_readBytes _ _)
  · rw [runCommand_fromLe j hl hn, thenRun_next]
    refine ⟨_, runCommand_toLe j rfl, (readBytes_storeBytes hwf (leBytes_length _ _)).trans ?_⟩
    exact (congrArg (leBytes _) (canon_feAt_loadInt hfits j hx)).trans (leBytes_leInt_readBytes _ _)

end Machine

end Sys2Proof
end

section
/-! PROOFS. The field-operation chapter (spec/41_field_ops.md): what `canon` says of equality, sums and products, the
compares, the selections, doubling and squaring, and the frames of the commands that write one flag or one register. -/

namespace Sys2Proof.Machine

/-! ## The compares (R69 to R71, R76, R77) -/

/-- Reduced representations are equal exactly when their values are. -/
theorem canon_inj {c : Config} (h : c.fits = true) {a b : Nat} (ha : a < c.P) (hb : b < c.P) :
    canon c a = canon c b ↔ a = b :=
  ⟨fun hc => (modEq_of_canon (Config.fits_odd h) hc).eq_of_lt_of_lt ha hb, congrArg (canon c)⟩

/-- Settles O30: the turn compares the latched representations, and `canon` is injective on them and keeps 0. -/
theorem representationCompares : Obligations.RepresentationCompares := by
  refine ⟨spelled_row 5, spelled_row 6, fun rs1 rs2 s =>
    ⟨fun hl => ⟨exec_idle _ hl, exec_idle _ hl⟩, fun o hl => exec_turn _ hl, fun o hl => exec_turn _ hl,
      fun a b hfits ha hb => ⟨?_, (canon_inj hfits ha hb).symm⟩⟩⟩
  rw [← canon_inj hfits ha (Config.fits_pos hfits), canon_zero]

/-- `IS_ODD` answers bit 0 of the value (R71). -/
theorem flagIsOdd_eq_testBit (c : Config) (a : Nat) : flagIsOdd c a = (canon c a).testBit 0 :=
  (Nat.testBit_zero _).symm

/-- The value `P - 1` is even, as `P` is odd (R71). -/
theorem testBit_zero_pred {c : Config} (h : c.fits = true) : (c.P - 1).testBit 0 = false := by
  have hodd := Config.fits_odd h
  rw [Nat.testBit_zero]
  exact decide_eq_false (by omega)

/-- Settles O31: the turn looks at the values of the latched representations, which differ where these do. -/
theorem canonicalCompares : Obligations.CanonicalCompares := by
  refine ⟨spelled_row 7, spelled_row 8, spelled_row 9, fun rs1 rs2 s =>
    ⟨fun hl => ⟨exec_idle _ hl, exec_idle _ hl, exec_idle _ hl⟩, fun o hl => ?_, fun o hl => exec_turn _ hl,
      fun o hl => exec_turn _ hl, fun a b hfits ha hb => ⟨?_, ?_, fun hne => ?_⟩⟩⟩
  · rw [exec_turn _ hl, turnOf, flagIsOdd_eq_testBit]; rfl
  · rw [canon_zero, Nat.zero_testBit]
  · rw [canon_mont hfits (Nat.sub_one_lt_of_lt (Config.fits_pos hfits)), testBit_zero_pred hfits]
  · have hvalues : canon s.cfg a ≠ canon s.cfg b := mt (canon_inj hfits ha hb).1 hne
    omega

/-- A compare is accepted, or writes `RESULT` and completes. -/
theorem Advances.compare_cases {i : Instr} {s t : State} (h : Advances i s t) {rs1 rs2 : FReg}
    (hi : i = .isZero rs1 ∨ i = .eq rs1 rs2 ∨ i = .isOdd rs1 ∨ i = .gt rs1 rs2 ∨ i = .lt rs1 rs2) :
    (∃ o, t = s.accept i o) ∨ ∃ b, t = (s.setResult b).complete := by
  rcases h with rfl | ⟨o, rfl⟩
  · left; rcases hi with rfl | rfl | rfl | rfl | rfl <;> exact ⟨_, rfl⟩
  · right; rcases hi with rfl | rfl | rfl | rfl | rfl <;> exact ⟨_, rfl⟩

/-- Settles O32: an accept writes the latch and `DONE`, and a completion `RESULT` besides. -/
theorem compareCommandsFrame : Obligations.CompareCommandsFrame := by
  intro i s t rs1 rs2 hi hlatch h
  rcases (exec_advances hlatch h).compare_cases hi with ⟨o, rfl⟩ | ⟨b, rfl⟩ <;>
    exact ⟨fun _ => rfl, fun _ => rfl, rfl, rfl, rfl, rfl, rfl, rfl, rfl, rfl, rfl, rfl, rfl, rfl, rfl, rfl⟩

/-! ## The selections (R74, R75) -/

/-- Settles O33: the turn selects between the latched registers by the immediate, or by the latched `RESULT`. -/
theorem selectCommandsChoose : Obligations.SelectCommandsChoose :=
  ⟨spelled_row 12, spelled_row 13, fun _ _ _ _ _ =>
    ⟨fun hl => ⟨exec_idle _ hl, exec_idle _ hl⟩, fun _ hl => exec_turn _ hl, fun _ hl => exec_turn _ hl⟩⟩

/-! ## Doubling and squaring (R72, R73) -/

/-- A register added to itself is doubled. -/
theorem engAdd_self (c : Config) (a : Nat) : engAdd c a a = (2 * a) % c.P := by rw [engAdd, two_mul]

/-- The value of a sum is the sum of the values modulo `P`. -/
theorem canon_engAdd (c : Config) (a b : Nat) : canon c (engAdd c a b) = (canon c a + canon c b) % c.P := by
  have hmod : engAdd c a b * c.rinv ≡ canon c a + canon c b [MOD c.P] := by
    calc engAdd c a b * c.rinv ≡ (a + b) * c.rinv [MOD c.P] := (Nat.mod_modEq _ _).mul_right _
      _ = a * c.rinv + b * c.rinv := add_mul _ _ _
      _ ≡ canon c a + canon c b [MOD c.P] := (canon_modEq c a).symm.add (canon_modEq c b).symm
  exact hmod

/-- The value of a Montgomery product is the product of the values modulo `P`. -/
theorem canon_engMul (c : Config) (a b : Nat) : canon c (engMul c a b) = (canon c a * canon c b) % c.P := by
  have hmod : engMul c a b * c.rinv ≡ canon c a * canon c b [MOD c.P] := by
    calc engMul c a b * c.rinv ≡ a * b * c.rinv * c.rinv [MOD c.P] := (Nat.mod_modEq _ _).mul_right _
      _ = a * c.rinv * (b * c.rinv) := by ring
      _ ≡ canon c a * canon c b [MOD c.P] := (canon_modEq c a).symm.mul (canon_modEq c b).symm
  exact hmod

/-- Doubling the value `(P + 1) / 2` gives `P + 1`, which is 1 modulo `P` (R72). -/
theorem two_mul_half_mod {c : Config} (h : c.fits = true) : 2 * ((c.P + 1) / 2) % c.P = 1 := by
  have hodd := Config.fits_odd h
  have hdouble : 2 * ((c.P + 1) / 2) = c.P + 1 := by omega
  rw [hdouble, Nat.add_mod_left]
  exact Nat.mod_eq_of_lt (by have := Config.fits_three h; omega)

/-- Settles O34: `DBL` is the sum and `SQR` the Montgomery product of the latched register with itself, and `canon`
takes them to the sum and the product of the value with itself. -/
theorem doubleAndSquare : Obligations.DoubleAndSquare := by
  have hdouble (c : Config) (a : Nat) : canon c ((2 * a) % c.P) = (2 * canon c a) % c.P := by
    rw [← engAdd_self, canon_engAdd, two_mul]
  refine ⟨spelled_row 10, spelled_row 11, fun rd rs1 s =>
    ⟨fun hl => ⟨exec_idle _ hl, exec_idle _ hl⟩, fun o hl => ?_, fun o hl => exec_turn _ hl⟩,
    fun c a => ⟨rfl, engAdd_self c a⟩, fun c a hfits _ => ⟨hdouble c a, canon_engMul c a a, fun ha => ?_⟩⟩
  · rw [exec_turn _ hl, turnOf, engAdd_self]; rfl
  · rw [hdouble, ha, two_mul_half_mod hfits]

/-! ## The frame of the commands that write one register -/

/-- A command that writes one register and no flag is accepted, or writes its destination and completes. -/
theorem Advances.register_cases {i : Instr} {s t : State} (h : Advances i s t) {rd rs1 rs2 : FReg} {ci : Bool}
    (hi : i = .dbl rd rs1 ∨ i = .sqr rd rs1 ∨ i = .seli rd rs1 rs2 ci ∨ i = .selr rd rs1 rs2 ∨
      i = .add rd rs1 rs2 ∨ i = .sub rd rs1 rs2 ∨ i = .mul rd rs1 rs2 ∨ i = .neg rd rs1) :
    (∃ o, t = s.accept i o) ∨ ∃ v, t = (s.setFE rd v).complete := by
  rcases h with rfl | ⟨o, rfl⟩
  · left; rcases hi with rfl | rfl | rfl | rfl | rfl | rfl | rfl | rfl <;> exact ⟨_, rfl⟩
  · right; rcases hi with rfl | rfl | rfl | rfl | rfl | rfl | rfl | rfl <;> exact ⟨_, rfl⟩

/-- Settles O38: an accept writes the latch and `DONE`, and a completion the destination besides. -/
theorem registerCommandsFrame : Obligations.RegisterCommandsFrame := by
  intro i s t rd rs1 rs2 ci hi hlatch h
  rcases (exec_advances hlatch h).register_cases hi with ⟨o, rfl⟩ | ⟨v, rfl⟩
  · exact ⟨fun _ _ => rfl, fun _ => rfl, rfl, rfl, rfl, rfl, rfl, rfl, rfl, rfl, rfl, rfl, rfl, rfl, rfl, rfl, rfl⟩
  · exact ⟨fun _ hr => feAt_setFE_other s v hr, fun _ => rfl, rfl, rfl, rfl, rfl, rfl, rfl, rfl, rfl, rfl, rfl, rfl,
      rfl, rfl, rfl, rfl⟩

end Sys2Proof.Machine
end

section
/-! PROOFS. The limb-engine chapter (spec/42_limb_engine.md): what `canon` says of differences and negations, the commands
that expose the engine, and the divstep in exact integers. -/

namespace Sys2Proof.Machine

/-! ## Differences and negations (R81, R83) -/

/-- A negation is a difference from `P`. -/
theorem engNeg_eq_engSub (c : Config) (a : Nat) : engNeg c a = engSub c c.P a := rfl

/-- A difference that is not negative is a difference of naturals. -/
theorem engSub_of_le (c : Config) {a b : Nat} (h : b ≤ a) : engSub c a b = (a - b) % c.P := by
  rw [engSub, ← Nat.cast_sub h, ← Int.natCast_emod, Int.toNat_natCast]

/-- Adding `P` first keeps the difference from being negative. -/
theorem engSub_eq_mod (c : Config) (a : Nat) {b : Nat} (hb : b < c.P) : engSub c a b = (c.P + a - b) % c.P := by
  rw [← engSub_of_le c (by omega), engSub, engSub]
  congr 1
  push_cast
  rw [add_sub_assoc, Int.add_emod_left]

theorem engNeg_eq_mod (c : Config) {a : Nat} (ha : a < c.P) : engNeg c a = (c.P - a) % c.P := engSub_of_le c ha.le

theorem engNeg_zero (c : Config) : engNeg c 0 = 0 := by simp [engNeg]

theorem engNeg_engNeg {c : Config} {a : Nat} (ha : a < c.P) : engNeg c (engNeg c a) = a := by
  rcases Nat.eq_zero_or_pos a with rfl | hpos
  · rw [engNeg_zero, engNeg_zero]
  · have hneg : c.P - a < c.P := by omega
    rw [engNeg_eq_mod c ha, Nat.mod_eq_of_lt hneg, engNeg_eq_mod c hneg, Nat.sub_sub_self ha.le, Nat.mod_eq_of_lt ha]

/-! ## The engine through `canon` (R90) -/

/-- The value of a difference is the difference of the values modulo `P`. -/
theorem canon_engSub {c : Config} (h : 0 < c.P) (a b : Nat) :
    (canon c (engSub c a b) : Int) = ((canon c a : Int) - (canon c b : Int)) % (c.P : Int) := by
  have hcanon (x : Nat) : (canon c x : Int) ≡ x * c.rinv [ZMOD c.P] := by rw [canon_cast]; exact Int.mod_modEq _ _
  have hmod : (engSub c a b : Int) * c.rinv ≡ canon c a - canon c b [ZMOD c.P] := by
    calc (engSub c a b : Int) * c.rinv ≡ (a - b) * c.rinv [ZMOD c.P] := by
          rw [engSub_cast h]; exact (Int.mod_modEq _ _).mul_right _
      _ = a * c.rinv - b * c.rinv := sub_mul _ _ _
      _ ≡ canon c a - canon c b [ZMOD c.P] := (hcanon a).symm.sub (hcanon b).symm
  rw [canon_cast]
  exact hmod

/-- The modulus represents the value 0. -/
theorem canon_modulus (c : Config) : canon c c.P = 0 := Nat.mul_mod_right _ _

/-- The value of a negation is the negated value modulo `P`. -/
theorem canon_engNeg {c : Config} (h : 0 < c.P) (a : Nat) :
    (canon c (engNeg c a) : Int) = (-(canon c a : Int)) % (c.P : Int) := by
  rw [engNeg_eq_engSub, canon_engSub h, canon_modulus, Nat.cast_zero, zero_sub]

/-- `MONT_ONE` represents the value 1. -/
theorem canon_montOne {c : Config} (h : c.fits = true) : canon c c.montOne = 1 := by
  have hone : c.montOne = mont c 1 := by rw [mont, one_mul, Config.montOne]
  rw [hone, canon_mont h (by have := Config.fits_three h; omega)]

/-- `MONT_ONE` is the identity of the Montgomery product. -/
theorem engMul_montOne {c : Config} (h : c.fits = true) {a : Nat} (ha : a < c.P) : engMul c a c.montOne = a := by
  have hP := Config.fits_pos h
  have hvalue : canon c (engMul c a c.montOne) = canon c a := by
    rw [canon_engMul, canon_montOne h, mul_one, Nat.mod_eq_of_lt (canon_lt hP a)]
  exact (canon_inj h (engMul_lt hP _ _) ha).1 hvalue

/-- Settles O37: each operation through `canon`, and `MONT_ONE` as the representation of 1. -/
theorem engineIsFieldArithmetic : Obligations.EngineIsFieldArithmetic := by
  intro c a b hfits ha _
  have hP := Config.fits_pos hfits
  exact ⟨canon_engAdd c a b, canon_engSub hP a b, canon_engNeg hP a, canon_engMul c a b, canon_engMul c a a,
    by rw [canon_engAdd, two_mul], engMul_montOne hfits ha, engNeg_engNeg ha, engNeg_zero c⟩

/-! ## The commands of the engine (R80-R83) -/

/-- Settles O36: each turn writes the engine's result on the latched registers, whose value `canon` gives. -/
theorem limbEngineCommands : Obligations.LimbEngineCommands := by
  refine ⟨spelled_row 14, spelled_row 15, spelled_row 16, spelled_row 17, fun rd rs1 rs2 s => ⟨?_,
    fun hl => exec_idle _ hl, fun o hl => exec_turn _ hl,
    fun o hl hP => ⟨engSub s.cfg o.a o.b, exec_turn _ hl, engSub_lt hP _ _, engSub_cast hP _ _⟩,
    fun o hl => exec_turn _ hl, fun o hl ha => ?_, fun a b hfits ha hb => ?_⟩⟩
  · rintro i (rfl | rfl | rfl) hl <;> exact exec_idle _ hl
  · rw [← engNeg_eq_mod s.cfg ha]
    exact exec_turn _ hl
  · have hP := Config.fits_pos hfits
    rw [← engSub_eq_mod s.cfg a hb, ← engNeg_eq_mod s.cfg ha]
    exact ⟨canon_engAdd s.cfg a b, canon_engSub hP a b, canon_engNeg hP a⟩

/-! ## The divstep in exact integers (R87) -/

/-- With `f` odd, what a divstep that does not swap halves is even. -/
theorem two_mul_halved {f g : Int} (hf : f % 2 = 1) : 2 * ((g + g % 2 * f) / 2) = g + g % 2 * f := by
  rcases Int.emod_two_eq_zero_or_one g with e | e <;> rw [e] <;> omega

/-- Settles O41: in range no word overflows, and each halving is of an even number. -/
theorem divstepIsExactInRange : Obligations.DivstepIsExactInRange := by
  intro c i x hfits hi hx
  have ⟨_, _, _, _, _, _, hodd⟩ := hx
  refine ⟨inRange_divstep hfits hi hx, fun h => ?_, fun h => ?_⟩
  · have hgodd := h.2
    rw [divstep_swap hfits hi hx h]
    exact ⟨rfl, rfl, by simp only; omega, rfl, toNat_emod (Config.fits_pos hfits) _⟩
  · have hbit : ((x.g % 2).toNat : Int) = x.g % 2 := toNat_emod (p := 2) (by norm_num) x.g
    rw [divstep_noSwap hfits hi hx h]
    exact ⟨rfl, rfl, two_mul_halved hodd, rfl, by push_cast [hbit]; rfl⟩

end Sys2Proof.Machine
end

section
/-! PROOFS. The inversion chapter (spec/43_inversion.md): the sign bit, a run of `INV` turn by turn, the final divstep
state, the congruences of R97 along the divsteps and the inverse they give, and the turns of `RAND`. -/

namespace Sys2Proof.Machine

/-! ## The sign bit (R94) -/

/-- Settles O44: in the range of the word a negative integer stands in the upper half of the residues, any other in the
lower half. -/
theorem signBitIsTheSign : Obligations.SignBitIsTheSign := by
  intro w x hw hlo hhi
  have htop : (2 : Int) ^ w = 2 * 2 ^ (w - 1) := by rw [← pow_succ', Nat.sub_add_cancel hw]
  rw [signBit, decide_eq_true_eq, htop]
  generalize (2 : Int) ^ (w - 1) = q at hlo hhi
  rcases lt_or_ge x 0 with hneg | hpos
  · have hres : x % (2 * q) = x + 2 * q := by
      rw [← Int.add_emod_right]
      exact Int.emod_eq_of_lt (by omega) (by omega)
    omega
  · rw [Int.emod_eq_of_lt hpos (by omega)]
    omega

/-- `P` leaves room for a sign in an extended limb vector, so the sign bit tells the sign of R89's integers. -/
theorem signBit_extended {c : Config} (hc : c.fits = true) {x : Int} (hx : x.natAbs ≤ c.P) :
    signBit c.extBits x = true ↔ x < 0 := by
  have hbits : c.W + 1 ≤ c.extBits := by
    have hwidth := Config.fits_width hc
    have hlimb := Config.fits_limbBits hc
    rw [Config.intBits] at hwidth
    rw [Config.extBits, Nat.mul_succ]
    omega
  have hP : (c.P : Int) < (2 : Int) ^ (c.extBits - 1) := by
    have hpow : 2 ^ c.W ≤ 2 ^ (c.extBits - 1) := Nat.pow_le_pow_right (by norm_num) (by omega)
    exact_mod_cast (Config.fits_lt hc).trans_le hpow
  exact signBitIsTheSign c.extBits x (by omega) (by omega) (by omega)

/-! ## The turns of an inversion (R91 to R96) -/

/-- Before the last iteration a turn is one iteration. -/
theorem exec_inv_iterate {rd rs1 : FReg} {o : Operands} {s : State}
    (hl : s.latch = some { instr := .inv rd rs1, src := o }) (hi : s.iter < s.cfg.nIter) :
    exec (.inv rd rs1) s = .next (iterate s) :=
  (exec_turn _ hl).trans (congrArg _ (if_pos hi))

/-- After the last iteration a turn is the end. -/
theorem exec_inv_finish {rd rs1 : FReg} {o : Operands} {s : State}
    (hl : s.latch = some { instr := .inv rd rs1, src := o }) (hi : s.cfg.nIter ≤ s.iter) :
    exec (.inv rd rs1) s = .next (finishInversion rd o s) :=
  (exec_turn _ hl).trans (congrArg _ (if_neg hi.not_gt))

/-- Settles O43: the counter decides between an iteration and the end, and its parity tells the current buffer set. -/
theorem inversionTurns : Obligations.InversionTurns := by
  refine fun rd rs1 s => ⟨fun hl => exec_idle _ hl, fun o hl hi => ⟨fun he => ?_, fun ho => ?_⟩,
    fun o hl hi => ⟨_, rfl, ?_⟩⟩
  · rw [exec_inv_iterate hl hi, iterate, if_pos he]
  · rw [exec_inv_iterate hl hi, iterate, if_neg (by omega)]
  · have hcurrent : s.current = if s.cfg.nIter % 2 = 1 then s.setB else s.setA := by
      rw [State.current, hi]
      rcases Nat.mod_two_eq_zero_or_one s.cfg.nIter with h | h <;> simp [h]
    rw [exec_inv_finish hl hi.ge, ← hcurrent]
    rfl

/-! ## A run of an inversion (R93) -/

/-- Iterations move the datapath and the counter only. -/
theorem iterate_iterate_frame (k : Nat) (s : State) :
    ∃ x y, iterate^[k] s = { s with setA := x, setB := y, iter := s.iter + k } := by
  induction k with
  | zero => exact ⟨_, _, rfl⟩
  | succ k ih =>
    obtain ⟨x, y, h⟩ := ih
    rw [Function.iterate_succ_apply', h, iterate]
    split <;> exact ⟨_, _, rfl⟩

/-- The current buffer set after `k` iterations is the one before them after `k` batches. -/
theorem current_iterate_iterate (k : Nat) (s : State) :
    (iterate^[k] s).current = (divstepBatch s.cfg)^[k] s.current := by
  induction k with
  | zero => rfl
  | succ k ih =>
    have hcfg : (iterate^[k] s).cfg = s.cfg := by
      obtain ⟨x, y, h⟩ := iterate_iterate_frame k s
      rw [h]
    rw [Function.iterate_succ_apply', Function.iterate_succ_apply', current_iterate, ih, hcfg]

/-- With `k` iterations left, an inversion in flight ends after `k + 1` turns. -/
theorem runCommand_inv_inFlight {rd rs1 : FReg} {o : Operands} (k : Nat) {s : State}
    (hl : s.latch = some { instr := .inv rd rs1, src := o }) (hi : s.iter + k = s.cfg.nIter) :
    runCommand (.inv rd rs1) (k + 1) s = .next (finishInversion rd o (iterate^[k] s)) := by
  induction k generalizing s with
  | zero => simp only [runCommand, exec_inv_finish hl hi.ge, Function.iterate_zero_apply]
  | succ k ih =>
    rw [runCommand, exec_inv_iterate hl (by omega)]
    exact ih ((iterate_latch s).trans hl) (by rw [iterate_iter, iterate_cfg]; omega)

/-- An idle core stays idle when it completes. -/
theorem complete_idle {s : State} (hl : s.latch = none) : s.complete = { s with done := true } := by
  rw [State.complete, ← hl]

/-- `INV` as a whole: after its accept and `N_ITER + 1` turns it has moved the datapath, written the result and `VALID`,
and completed. -/
theorem runCommand_inv (rd rs1 : FReg) {s : State} (hl : s.latch = none) :
    ∃ x y n, runCommand (.inv rd rs1) (s.cfg.nIter + 2) s = .next (State.complete
      { (s.setFE rd (divResult s.cfg
          ((divstepBatch s.cfg)^[s.cfg.nIter] (divInit s.cfg (canon s.cfg (s.feAt rs1)))))).setValid
            (decide (s.feAt rs1 ≠ 0)) with
        setA := x, setB := y, iter := n }) := by
  have hrun : runCommand (.inv rd rs1) (s.cfg.nIter + 2) s = .next
      (finishInversion rd (srcOne rs1 s) (iterate^[s.cfg.nIter] (startInversion (.inv rd rs1) rs1 s))) := by
    rw [runCommand, exec_idle _ hl]
    exact runCommand_inv_inFlight s.cfg.nIter (s := startInversion (.inv rd rs1) rs1 s) rfl (Nat.zero_add _)
  have hcurrent := current_iterate_iterate s.cfg.nIter (startInversion (.inv rd rs1) rs1 s)
  obtain ⟨x, y, hframe⟩ := iterate_iterate_frame s.cfg.nIter (startInversion (.inv rd rs1) rs1 s)
  refine ⟨x, y, 0 + s.cfg.nIter, ?_⟩
  rw [hrun, finishInversion, hcurrent, hframe]
  rfl

/-- Settles O42: a run of `INV` from an idle block, which completing leaves idle. -/
theorem inversionRunsTheAlgorithm : Obligations.InversionRunsTheAlgorithm := by
  refine ⟨spelled_row 18, fun rd rs1 s hl => ?_⟩
  obtain ⟨x, y, n, hrun⟩ := runCommand_inv rd rs1 hl
  exact ⟨_, _, _, hrun.trans (congrArg _ (complete_idle hl)), rfl, rfl⟩

/-! ## The final divstep state (R98, R99) -/

/-- Once `g` and `v` are 0, any number of divsteps keeps `v`. -/
theorem divstepIter_of_g_v_zero (c : Config) (k : Nat) {x : DivState} (hg : x.g = 0) (hv : x.v = 0) :
    (divstepIter c k x).v = 0 := by
  induction k with
  | zero => exact hv
  | succ k ih =>
    obtain ⟨hgk, -⟩ := divstepIter_of_g_zero c k hg
    rw [divstepIter_succ]
    simp [divstep, hgk, ih]

/-- Settles O46: a nonzero value has converged after `T` divsteps; from `g = 0` nothing moves `g`, `f` or `v = 0`. -/
theorem finalDivstepState : Obligations.FinalDivstepState := by
  rintro c a ⟨-, -, hconv⟩ ha
  rcases Nat.eq_zero_or_pos a with rfl | hpos
  · have hg0 : (divInit c 0).g = 0 := rfl
    obtain ⟨hg, hf⟩ := divstepIter_of_g_zero c c.divsteps hg0
    exact ⟨hg, fun h => absurd rfl h, fun _ => ⟨hf, divstepIter_of_g_v_zero c _ hg0 rfl⟩⟩
  · obtain ⟨hg, hf⟩ := (Config.converges_iff c).1 hconv a hpos ha
    exact ⟨hg, fun _ => by omega, fun h => by omega⟩

/-! ## The congruences of R97 -/

/-- R97, times `2^i`: `f * 2^i` is `v * a * RINV` and `g * 2^i` is `r * a * RINV` modulo `P`. -/
def DivState.Tracks (c : Config) (a i : Nat) (x : DivState) : Prop :=
  (x.f : ZMod c.P) * 2 ^ i = x.v * a * c.rinv ∧ (x.g : ZMod c.P) * 2 ^ i = x.r * a * c.rinv

/-- A residue of an integer is the integer modulo `P`. -/
theorem toNat_emod_zmod {p : Nat} (h : 0 < p) (x : Int) : (((x % (p : Int)).toNat : Nat) : ZMod p) = x := by
  rw [← Int.cast_natCast, toNat_emod h, ZMod.intCast_mod]

/-- `RINV * R` is 1 modulo `P`. -/
theorem rinv_mul_radix {c : Config} (hc : c.fits = true) : (c.rinv : ZMod c.P) * c.radix = 1 := by
  exact_mod_cast (ZMod.natCast_eq_natCast_iff _ _ _).2 (Config.rinv_modEq (Config.fits_odd hc))

/-- `PRECOMP * 2^T` is `R` modulo `P` (R86). -/
theorem precomp_mul_two_pow {c : Config} (hc : c.fits = true) : (c.precomp : ZMod c.P) * 2 ^ c.divsteps = c.radix := by
  exact_mod_cast (ZMod.natCast_eq_natCast_iff _ _ _).2 (Config.precomp_modEq (Config.fits_odd hc))

/-- At accept `f` is `P` with `v = 0`, and `g` is `a` with `r` the representation of 1 (R92). -/
theorem tracks_divInit {c : Config} (hc : c.fits = true) (a : Nat) : DivState.Tracks c a 0 (divInit c a) := by
  constructor
  · simp [divInit, Config.msat]
  · simp only [divInit, Config.montOne, ZMod.natCast_mod, Int.cast_natCast, pow_zero]
    linear_combination -(a : ZMod c.P) * rinv_mul_radix hc

/-- Where `v` doubles, the congruence of `f` gains a factor 2. -/
theorem tracks_double {c : Config} {a i v : Nat} {f : Int} (h : (f : ZMod c.P) * 2 ^ i = v * a * c.rinv) :
    (f : ZMod c.P) * 2 ^ (i + 1) = ((2 * v % c.P : Nat) : ZMod c.P) * a * c.rinv := by
  rw [ZMod.natCast_mod, pow_succ]
  push_cast
  linear_combination 2 * h

/-- Where `g` is halved after adding a multiple of `f` and `r` takes the same multiple of `v`, the congruence of `g`
gains a factor 2. -/
theorem DivState.Tracks.halve {c : Config} {a i : Nat} {x y : DivState} (ht : DivState.Tracks c a i x) {e : Int}
    (hg : 2 * y.g = x.g + e * x.f) (hr : (y.r : Int) = ((x.r : Int) + e * (x.v : Int)) % (c.P : Int)) :
    (y.g : ZMod c.P) * 2 ^ (i + 1) = y.r * a * c.rinv := by
  obtain ⟨htf, htg⟩ := ht
  have hgz := congrArg (Int.cast : Int → ZMod c.P) hg
  have hrz := congrArg (Int.cast : Int → ZMod c.P) hr
  push_cast [ZMod.intCast_mod] at hgz hrz
  rw [hrz, pow_succ]
  linear_combination 2 ^ i * hgz + htg + (e : ZMod c.P) * htf

/-- A divstep in range moves the congruences on by one halving (R87). -/
theorem tracks_divstep {c : Config} {a i : Nat} {x : DivState} (hc : c.fits = true) (hi : i < c.divsteps)
    (hx : DivState.InRange c i x) (ht : DivState.Tracks c a i x) : DivState.Tracks c a (i + 1) (divstep c x) := by
  have ⟨htf, htg⟩ := ht
  obtain ⟨-, hswap, hkeep⟩ := divstepIsExactInRange c i x hc hi hx
  by_cases h : 0 < x.d ∧ x.g % 2 = 1
  · obtain ⟨-, hf, hg, hv, hr⟩ := hswap h
    rw [sub_eq_add_neg, ← neg_one_mul] at hg hr
    exact ⟨by rw [hf, hv]; exact tracks_double htg, ht.halve hg hr⟩
  · obtain ⟨-, hf, hg, hv, hr⟩ := hkeep h
    exact ⟨by rw [hf, hv]; exact tracks_double htf, ht.halve hg hr⟩

/-- Through all `T` divsteps the range of R89 and the congruences of R97 hold. -/
theorem inRange_tracks_divstepIter {c : Config} {a : Nat} (hc : c.fits = true) (ha : a < c.P) {k : Nat}
    (hk : k ≤ c.divsteps) : DivState.InRange c k (divstepIter c k (divInit c a)) ∧
      DivState.Tracks c a k (divstepIter c k (divInit c a)) := by
  induction k with
  | zero => exact ⟨inRange_divInit hc ha, tracks_divInit hc a⟩
  | succ k ih =>
    obtain ⟨hrange, htracks⟩ := ih (by omega)
    rw [divstepIter_succ]
    exact ⟨inRange_divstep hc hk hrange, tracks_divstep hc hk hrange htracks⟩

/-! ## The inverse (R97) -/

/-- The sign correction multiplies by a final `f` of 1 or -1 (R94). -/
theorem ctSelect_signBit {c : Config} (hc : c.fits = true) {f : Int} (hf : f = 1 ∨ f = -1) (v : Nat) :
    (ctSelect (signBit c.extBits f) v (engNeg c v) : ZMod c.P) = f * v := by
  have hP := Config.fits_pos hc
  have hsign := signBit_extended hc (x := f) (by omega)
  rcases hf with rfl | rfl
  · simp [ctSelect, hsign]
  · simp [ctSelect, hsign, engNeg, toNat_emod_zmod hP]

/-- From a final state with `f` 1 or -1, the result represents the inverse of `a`. -/
theorem canon_divResult_mul {c : Config} (hc : c.fits = true) {a : Nat} {x : DivState} (hf : x.f = 1 ∨ x.f = -1)
    (ht : DivState.Tracks c a c.divsteps x) : (canon c (divResult c x) * a) % c.P = 1 := by
  obtain ⟨htf, -⟩ := ht
  have hff : (x.f : ZMod c.P) * x.f = 1 := by rcases hf with h | h <;> simp [h]
  have hone : ((canon c (divResult c x) * a : Nat) : ZMod c.P) = (1 : Nat) := by
    rw [canon, divResult, engMul]
    push_cast [ZMod.natCast_mod, ctSelect_signBit hc hf]
    linear_combination -(x.f : ZMod c.P) * c.precomp * c.rinv * htf + c.precomp * c.rinv * 2 ^ c.divsteps * hff +
      c.rinv * precomp_mul_two_pow hc + rinv_mul_radix hc
  rw [(ZMod.natCast_eq_natCast_iff' _ _ _).1 hone]
  exact Nat.mod_eq_of_lt (by have := Config.fits_three hc; omega)

/-- With `v = 0` the result is 0, whatever the sign. -/
theorem divResult_of_v_zero (c : Config) {x : DivState} (hv : x.v = 0) : divResult c x = 0 := by
  simp [divResult, ctSelect, engNeg_zero, engMul, hv]

/-- With `BATCH = 1`, `N_ITER` batches are `T` divsteps (R88). -/
theorem iterate_divstepBatch (c : Config) (x : DivState) :
    (divstepBatch c)^[c.nIter] x = divstepIter c c.divsteps x := by
  rw [divstepIter_eq_iterate, Config.divsteps, Config.batch, mul_one]
  rfl

/-- What a run of `INV` leaves in the registers and the flags, with the final state in single divsteps. -/
theorem runCommand_inv_writes (rd rs1 : FReg) {s : State} (hl : s.latch = none) :
    ∃ t, runCommand (.inv rd rs1) (s.cfg.nIter + 2) s = .next t ∧ t.latch = none ∧ t.done = true ∧
      (∀ r, r ≠ rd → t.feAt r = s.feAt r) ∧ t.valid = decide (s.feAt rs1 ≠ 0) ∧
      t.feAt rd =
        divResult s.cfg (divstepIter s.cfg s.cfg.divsteps (divInit s.cfg (canon s.cfg (s.feAt rs1)))) := by
  obtain ⟨x, y, n, hrun⟩ := runCommand_inv rd rs1 hl
  rw [iterate_divstepBatch] at hrun
  exact ⟨_, hrun, rfl, rfl, fun r hr => feAt_setFE_other s _ hr, rfl, feAt_setFE_same s rd _⟩

/-- Settles O45: the run of `INV` writes the result of the final state, which the congruences of R97 turn into the
inverse; a reduced register represents 0 only when it holds 0. -/
theorem inversionComputesTheInverse : Obligations.InversionComputesTheInverse := by
  intro s rd rs1 hvalid hl hred
  have ⟨hfits, _, _⟩ := hvalid
  have hP := Config.fits_pos hfits
  have ha : canon s.cfg (s.feAt rs1) < s.cfg.P := canon_lt hP _
  have hcanon : canon s.cfg (s.feAt rs1) = 0 ↔ s.feAt rs1 = 0 := by
    rw [← canon_inj hfits hred hP, canon_zero]
  obtain ⟨-, hunit, hzero⟩ := finalDivstepState s.cfg _ hvalid ha
  obtain ⟨-, htracks⟩ := inRange_tracks_divstepIter hfits ha le_rfl
  obtain ⟨t, hrun, hlatch, hdone, hframe, hflag, hresult⟩ := runCommand_inv_writes rd rs1 hl
  refine ⟨t, hrun, hlatch, hdone, hframe, ?_, fun hne => ⟨?_, ?_⟩, fun h0 => ⟨?_, ?_⟩⟩
  · rw [hresult]
    exact divResult_lt hP _
  · rw [hflag, decide_eq_true hne]
  · rw [hresult]
    exact canon_divResult_mul hfits (hunit (mt hcanon.1 hne)) htracks
  · rw [hflag, decide_eq_false (not_not.2 h0)]
  · obtain ⟨-, hv⟩ := hzero (hcanon.2 h0)
    rw [hresult]
    exact divResult_of_v_zero s.cfg hv

/-! ## The turns of a sampling (R101, R102) -/

/-- Settles O47: the accept asks for a draw, and the draw decides the turn. -/
theorem samplingTurns : Obligations.SamplingTurns := by
  refine ⟨spelled_row 19, fun rd s => ⟨fun hl => exec_idle _ hl, fun o hl => ?_⟩⟩
  rw [exec_turn _ hl, turnOf, turnSampling]
  refine ⟨fun hd => ?_, fun b hd hb => ?_, fun b hd hb => ?_⟩ <;> rw [hd]
  · rfl
  · simp only [if_pos hb]; rfl
  · simp only [if_neg hb.not_gt]; rfl

end Sys2Proof.Machine
end

section
/-! PROOFS. The exceptions chapter (spec/60_exceptions.md): the checks of a `CMD` write, writes while a command is in
flight, the registers a handler reads and writes, the interrupt output, and the step of a command. -/

namespace Sys2Proof.Machine

/-! ## The checks of a `CMD` write (R107 to R109) -/

/-- Out of reset, a `CMD` write while a command is in flight only sets `ERR_BUSY`. -/
theorem stepOn_command_busy {s : State} (w : Word) (hok : s.cfg.ok = true) (hr : s.rstN = true) (hl : s.latch ≠ none) :
    s.stepOn (s.writeTo 0x018 w) = .next { s with resp := some .ack, errBusy := true } :=
  (stepOn_command w hok hr).trans (issue_busy (s := { s with resp := some .ack }) w hl)

/-- Out of reset, an illegal word on an idle block only sets `ERR_ILLEGAL` and `DONE`. -/
theorem stepOn_command_illegal {s : State} {w : Word} (hok : s.cfg.ok = true) (hr : s.rstN = true) (hl : s.latch = none)
    (hd : decode w = none) :
    s.stepOn (s.writeTo 0x018 w) = .next { s with resp := some .ack, errIllegal := true, done := true } :=
  (stepOn_command w hok hr).trans (issue_illegal (s := { s with resp := some .ack }) hl hd)

/-- Out of reset, a legal word on an idle block is its command, the access acknowledged. -/
theorem stepOn_command_legal {s : State} {w : Word} {i : Instr} (hok : s.cfg.ok = true) (hr : s.rstN = true)
    (hl : s.latch = none) (hd : decode w = some i) :
    s.stepOn (s.writeTo 0x018 w) = exec i { s with resp := some .ack } :=
  (stepOn_command w hok hr).trans (issue_legal (s := { s with resp := some .ack }) hl hd)

/-- Out of reset, a legal word on an idle block starts its command. -/
theorem stepOn_command_starts {s : State} {w : Word} {i : Instr} (hok : s.cfg.ok = true) (hr : s.rstN = true)
    (hl : s.latch = none) (hd : decode w = some i) :
    s.stepOn (s.writeTo 0x018 w) = .next (startOf i { s with resp := some .ack }) :=
  (stepOn_command_legal hok hr hl hd).trans (exec_idle i (s := { s with resp := some .ack }) hl)

/-- With a wrong length a decode command fails before it is accepted (R109). -/
theorem startOf_wrongLength {i : Instr} {s : State} (hi : ∃ rd, i = .fromBe rd ∨ i = .fromLe rd)
    (hn : s.bufLen.toNat ≠ s.cfg.nb) : startOf i s = s.lengthError := by
  obtain ⟨rd, rfl | rfl⟩ := hi <;> exact if_neg hn

/-- A command that is no decode command, or finds the right length, is accepted (R107). -/
theorem startOf_accepted {i : Instr} {s : State}
    (hn : ∀ rd, (i = .fromBe rd ∨ i = .fromLe rd) → s.bufLen.toNat = s.cfg.nb) :
    ∃ o x n d q, startOf i s = { s.accept i o with setA := x, iter := n, draw := d, rngReq := q } := by
  cases i with
  | fromBe rd => exact ⟨_, _, _, _, _, startOf_fromBe rd (hn rd (.inl rfl))⟩
  | fromLe rd => exact ⟨_, _, _, _, _, startOf_fromLe rd (hn rd (.inr rfl))⟩
  | _ => exact ⟨_, _, _, _, _, rfl⟩

/-- Out of reset, a decode command on an idle block with a wrong length only reports it. -/
theorem stepOn_command_wrongLength {s : State} {w : Word} {rd : FReg} (hok : s.cfg.ok = true) (hr : s.rstN = true)
    (hl : s.latch = none) (hd : decode w = some (.fromBe rd) ∨ decode w = some (.fromLe rd))
    (hn : s.bufLen.toNat ≠ s.cfg.nb) :
    s.stepOn (s.writeTo 0x018 w) = .next { s with resp := some .ack, errLen := true, valid := false, done := true } := by
  obtain ⟨i, hdi, hi⟩ : ∃ i, decode w = some i ∧ ∃ rd, i = .fromBe rd ∨ i = .fromLe rd :=
    hd.elim (fun h => ⟨_, h, rd, .inl rfl⟩) (fun h => ⟨_, h, rd, .inr rfl⟩)
  exact (stepOn_command_starts hok hr hl hdi).trans
    (congrArg _ (startOf_wrongLength (s := { s with resp := some .ack }) hi hn))

/-- Settles O7: the four outcomes of a `CMD` write, one for each check and one for their passing. -/
theorem commandWriteChecksInOrder : Obligations.CommandWriteChecksInOrder := by
  intro s w hok hr
  refine ⟨stepOn_command_busy w hok hr, stepOn_command_illegal hok hr, fun rd => stepOn_command_wrongLength hok hr,
    fun i hl hd hn => ?_⟩
  obtain ⟨o, x, n, d, q, hstart⟩ := startOf_accepted (s := { s with resp := some .ack }) hn
  exact ⟨_, o, (stepOn_command_starts hok hr hl hd).trans (congrArg _ hstart), rfl, rfl, rfl, rfl, rfl, rfl, rfl, rfl,
    rfl, rfl, rfl, rfl, rfl⟩

/-! ## Writes while a command is in flight (R110) -/

/-- Settles O8: the map says which register each offset names, and a busy block drops the writes of `CMD`, `BUF_LEN` and
the windows. -/
theorem writesWhileBusyAreDropped : Obligations.WritesWhileBusyAreDropped := by
  intro s off v hok hr hl h4 ho
  have write {r : BusReg} (hreg : busReg off = r) (hcmd : r ≠ .cmd) :=
    stepOn_writeTo_reg v hok hr ho h4 hreg hcmd
  refine ⟨fun h => ?_, fun h => write (r := .ctrl) (by rw [h]; rfl) nofun,
    fun h => write (r := .status) (by rw [h]; rfl) nofun, fun h => ?_⟩
  · rw [stepOn_writeTo s v hok ho h4]
    refine writeAccess_busy v hr hl ?_
    rcases h with rfl | rfl | hlo
    · exact .inl rfl
    · exact .inr (.inl rfl)
    · rcases busReg_window h4 hlo ho with ⟨k, -, -, hreg⟩ | ⟨j, -, -, hreg⟩
      · exact .inr (.inr (.inl ⟨k, hreg⟩))
      · exact .inr (.inr (.inr ⟨j, hreg⟩))
  · rcases h with h | ⟨hlo, hhi⟩
    · rw [stepOn_writeTo s v hok ho h4, writeAccess_id v (busReg_lt h4 h)]
    · exact write (busReg_reserved hlo hhi) nofun

/-! ## `STATUS`, `CTRL` and `BUF_LEN` at the bus (R114) -/

/-- A field of a word reads 0 when each of its bits does. -/
theorem extractLsb'_eq_zero {w : Word} {lo n : Nat} (h : ∀ k, lo ≤ k → k < lo + n → w.getLsbD k = false) :
    w.extractLsb' lo n = 0 := by
  apply BitVec.eq_of_getLsbD_eq
  intro k hk
  simp [h (lo + k) (by omega) (by omega)]

/-- The reserved fields of `STATUS` read 0 (R24). -/
theorem statusWord_reserved_fields (s : State) :
    s.statusWord.extractLsb' 4 4 = 0 ∧ s.statusWord.extractLsb' 12 20 = 0 := by
  constructor
  all_goals
    refine extractLsb'_eq_zero fun k hlo hhi => ?_
    rw [getLsbD_statusWord]
    iterate 8 rw [if_neg (by omega)]

/-- The fields of `BUF_LEN` as the host reads it (R20). -/
theorem bufLenWord_fields (n : BitVec 16) :
    (n.setWidth 32).extractLsb' 0 16 = n ∧ (n.setWidth 32).extractLsb' 16 16 = 0 := by
  constructor
  · apply BitVec.eq_of_getLsbD_eq
    intro k hk
    simp [hk, show k < 32 by omega]
  · refine extractLsb'_eq_zero fun k hlo _ => ?_
    rw [BitVec.getLsbD_setWidth, BitVec.getLsbD_of_ge _ _ hlo, Bool.and_false]

/-- Out of reset, a write of `STATUS` is the W1C of its bits, busy or not. -/
theorem stepOn_writeTo_status {s : State} (v : Word) (hok : s.cfg.ok = true) (hr : s.rstN = true) :
    s.stepOn (s.writeTo 0x014 v) = .next (({ s with resp := some .ack } : State).writeStatus v) :=
  stepOn_writeTo_reg v hok hr (by norm_num) (by norm_num) (r := .status) rfl nofun

/-- Settles O14: the three registers are no data windows, so they read their words busy or not, and each word is known
bit by bit. -/
theorem statusReadsItsBitsAndClearsOnOne : Obligations.StatusReadsItsBitsAndClearsOnOne := by
  intro s v hok hr
  have read {off : Nat} {r : BusReg} (ho : off < 0x800) (h4 : off % 4 = 0) (hreg : busReg off = r)
      (hw : r.isWindow = false) := stepOn_readFrom_reg hok hr ho h4 hreg (.inr hw)
  have hstatus := getLsbD_statusWord s
  obtain ⟨hmid, hhigh⟩ := statusWord_reserved_fields s
  refine ⟨⟨s.statusWord, read (by norm_num) rfl rfl rfl, hstatus 0, hstatus 1, hstatus 2, hstatus 3, hstatus 8,
      hstatus 9, hstatus 10, hstatus 11, hmid, hhigh⟩,
    ⟨s.ctrlWord, read (by norm_num) rfl rfl rfl, getLsbD_ctrlWord s 1,
      fun k hk => (getLsbD_ctrlWord s k).trans (if_neg hk)⟩,
    ⟨s.bufLen.setWidth 32, read (by norm_num) rfl rfl rfl, bufLenWord_fields s.bufLen⟩,
    stepOn_writeTo_status v hok hr⟩

/-! ## The interrupt output (R113) -/

/-- A write of `STATUS` lowers `irq` exactly when it clears `DONE`. -/
theorem writeStatus_irq (s : State) (v : Word) : (s.writeStatus v).irq = (s.irq && !v.getLsbD 1) :=
  Bool.and_right_comm s.done (!v.getLsbD 1) s.ie

/-- A write of `CTRL` leaves `irq` at `DONE` and the `IE` written, or at 0 if it resets the block. -/
theorem writeCtrl_irq (s : State) (v : Word) : (s.writeCtrl v).irq = (s.done && v.getLsbD 1 && !v.getLsbD 0) := by
  cases h : v.getLsbD 0 with
  | true => rw [writeCtrl_srst h, Bool.not_true, Bool.and_false]; rfl
  | false => rw [writeCtrl_ie h, Bool.not_false, Bool.and_true]; rfl

/-- The start of a command is its accept, or a length error, after which `irq` is `IE`. -/
theorem StartCase.irq {i : Instr} {s t : State} (hc : StartCase i s t) : t.latch ≠ none ∨ t.irq = s.ie := by
  cases hc with
  | lengthError => exact .inr rfl
  | accept => exact .inl nofun

/-- A command in flight goes on with `irq` as it was, or completes, after which `irq` is `IE`. -/
theorem TurnCase.irq {s t : State} (hc : TurnCase s t) :
    (t.latch = s.latch ∧ t.irq = s.irq) ∨ (t.latch = none ∧ t.irq = s.ie) := by
  cases hc with
  | goesOn => exact .inl ⟨rfl, rfl⟩
  | completes => exact .inr ⟨rfl, rfl⟩

/-- Out of reset, a turn of the core that leaves no command in flight has completed the one there was. -/
theorem stepOn_core_completes_irq {s t : State} (hok : s.cfg.ok = true) (hr : s.rstN = true) (hl : s.latch ≠ none)
    (hstep : s.stepOn .core = .next t) (ht : t.latch = none) : t.irq = s.ie := by
  obtain ⟨⟨i, o⟩, hlatch⟩ := Option.ne_none_iff_exists'.1 hl
  have hturn : s.stepOn .core = .next (turnOf i o s) := (stepOn_eq s .core hok).trans (coreTurn_turn hr hlatch)
  cases hturn.symm.trans hstep
  rcases (turnOf_cases i o s).irq with ⟨hsame, -⟩ | ⟨-, hirq⟩
  · exact absurd (hsame.symm.trans ht) hl
  · exact hirq

/-- The ways `irq` falls. -/
theorem step_irq_falls {s t : State} (hstep : step s = .next t) (hup : s.irq = true) (hdown : t.irq = false) :
    s.ResetNext ∨ (s.latch = none ∧ t.latch ≠ none) ∨
    (∃ v es, s.events = s.writeTo 0x014 v :: es ∧ v.getLsbD 1 = true) ∨
    (∃ v es, s.events = s.writeTo 0x010 v :: es ∧ v.getLsbD 1 = false) := by
  obtain ⟨-, hc⟩ := step_cases hstep
  obtain ⟨hdone, hie⟩ := Bool.and_eq_true_iff.1 hup
  have irq_ne_ie : t.irq ≠ s.ie := fun h => nomatch hie.symm.trans (h.symm.trans hdown)
  cases hc with
  | softReset v he hv => exact .inl (resetNext_of_srst he hv)
  | hold he => exact .inl (resetNext_of_pin he)
  | illegal => exact (irq_ne_ie rfl).elim
  | start i hl =>
    rcases (startOf_cases i { s with events := s.events.tail, resp := some .ack }).irq with h | h
    · exact .inr (.inl ⟨hl, h⟩)
    · exact (irq_ne_ie h).elim
  | turn i o =>
    rcases (turnOf_cases i o { s with events := s.events.tail }).irq with ⟨-, h⟩ | ⟨-, h⟩
    · exact nomatch hup.symm.trans (h.symm.trans hdown)
    · exact (irq_ne_ie h).elim
  | status v he =>
    obtain ⟨es, hes⟩ := List.head?_eq_some_iff.1 he
    have hirq : (s.irq && !v.getLsbD 1) = false := (writeStatus_irq _ v).symm.trans hdown
    exact .inr (.inr (.inl ⟨v, es, hes, by simpa [hup] using hirq⟩))
  | enable v he =>
    obtain ⟨es, hes⟩ := List.head?_eq_some_iff.1 he
    have hirq : (s.done && v.getLsbD 1) = false := hdown
    exact .inr (.inr (.inr ⟨v, es, hes, by simpa [hdone] using hirq⟩))
  | _ => exact nomatch hup.symm.trans hdown

/-- Settles O18: each kind of access and of turn says what it leaves `irq` at, and of all cases of a step only four lower
it. -/
theorem interruptIsDoneAndEnable : Obligations.InterruptIsDoneAndEnable := by
  refine ⟨fun s => ?_, fun _ => rfl, fun s v hok hr => ?_, fun _ _ => step_irq_falls⟩
  · rw [getLsbD_statusWord, getLsbD_ctrlWord]
    rfl
  · exact ⟨fun t => stepOn_core_completes_irq hok hr,
      fun hl hd => ⟨_, stepOn_command_illegal hok hr hl hd, rfl, rfl⟩,
      fun rd hl hd hn => ⟨_, stepOn_command_wrongLength hok hr hl hd hn, rfl, rfl⟩,
      ⟨_, stepOn_writeTo_reg v hok hr (by norm_num) (by norm_num) (r := .ctrl) rfl nofun, writeCtrl_irq _ v⟩,
      ⟨_, stepOn_writeTo_status v hok hr, writeStatus_irq _ v⟩,
      fun hl => ⟨_, stepOn_command_busy v hok hr hl, rfl, rfl⟩⟩

/-! ## The step of a command (R104, R107, R111, R112) -/

/-- Without an input to come, a step is a turn of the core. -/
theorem step_of_no_event {s : State} (hok : s.cfg.ok = true) (he : s.events = []) : step s = s.coreTurn := by
  rw [step, if_pos hok, State.advance, he]

/-- Out of reset, a turn of the core is `exec` of the command in flight. -/
theorem coreTurn_exec {s : State} {l : Latch} (hr : s.rstN = true) (hl : s.latch = some l) :
    s.coreTurn = exec l.instr s := by
  rw [coreTurn_turn hr hl, exec_turn l.instr hl]

/-- The host's placing of a word is its `CMD` write on the block made idle and taken out of reset. -/
theorem step_withFetchWord (s : State) {w : Nat} (hw : w < 2 ^ 32) :
    step (s.withFetchWord 32 w) =
      ({ s with latch := none, rstN := true } : State).stepOn (s.writeTo 0x018 (BitVec.ofNat 32 w)) := by
  rw [State.withFetchWord, Nat.mod_eq_of_lt hw]
  rfl

/-- Settles O6: the `CMD` write of a legal word, the core's turn, and the placing of a word as such a write. -/
theorem stepRunsTheDecodedCommand : Obligations.StepRunsTheDecodedCommand := by
  refine ⟨fun s w i => stepOn_command_legal, fun s l hok hr hl => ?_, fun s w i hok hw hd => ?_⟩
  · have hturn := coreTurn_exec hr hl
    exact ⟨(stepOn_eq s .core hok).trans hturn, fun he => (step_of_no_event hok he).trans hturn⟩
  · rw [step_withFetchWord s hw]
    exact stepOn_command_legal (s := { s with latch := none, rstN := true }) hok rfl rfl hd

/-- Settles O59: a command starts, takes a turn or is dropped, and each is a next state. -/
theorem noCommandStopsTheMachine : Obligations.NoCommandStopsTheMachine := by
  intro i s
  cases hl : s.latch with
  | none => exact ⟨_, exec_idle i hl⟩
  | some l =>
    by_cases hi : l.instr = i
    · subst hi
      exact ⟨_, exec_turn l.instr hl⟩
    · exact ⟨_, exec_other i hl hi⟩

end Sys2Proof.Machine
end

section
/-! PROOFS. The reset and hazards chapter (spec/70_reset_and_hazards.md): what timing shows, host accesses while a command
is in flight, the two resets and the state they leave. -/

namespace Sys2Proof.Machine

/-! ## The machine an observer of timing can run (R131)

Each function of `PublicView` is what the machine's function of that name does to the public view; the lemmas between
them say so. None of them reads a secret, so the view after a step is a function of the view before it. -/

/-- What an outcome shows: the view of the next state, or why the machine stops. -/
def Result.view : Result → Host.Outcome PublicView Fault Refusal
  | .next s => .next s.publicView
  | .fault r => .fault r
  | .refused r => .refused r

/-- Two outcomes that show the same are next states with one view, or stops for one reason. -/
theorem Result.view_eq {a b : Result} (h : a.view = b.view) :
    (∃ s t, a = .next s ∧ b = .next t ∧ s.publicView = t.publicView) ∨
    (∃ r, a = .fault r ∧ b = .fault r) ∨ (∃ r, a = .refused r ∧ b = .refused r) := by
  cases a with
  | next s =>
    cases b with
    | next t => exact .inl ⟨s, t, rfl, rfl, Host.Outcome.next.inj h⟩
    | _ => exact nomatch h
  | fault r =>
    cases b with
    | fault q => cases h; exact .inr (.inl ⟨r, rfl, rfl⟩)
    | _ => exact nomatch h
  | refused r =>
    cases b with
    | refused q => cases h; exact .inr (.inr ⟨r, rfl, rfl⟩)
    | _ => exact nomatch h

/-- What shows of `State.accept`: the command, without its operands. -/
def PublicView.accept (i : Instr) (v : PublicView) : PublicView := { v with inFlight := some i, done := false }

/-- What shows of `State.complete`. -/
def PublicView.complete (v : PublicView) : PublicView := { v with inFlight := none, done := true }

/-- What shows of `startOf`: of the buffers only `BUF_LEN` decides anything (R109). -/
def PublicView.start (i : Instr) (v : PublicView) : PublicView :=
  match i with
  | .fromBe _ | .fromLe _ =>
    if v.bufLen.toNat = v.cfg.nb then v.accept i else { v with errLen := true, done := true }
  | .inv _ _ => { v.accept i with iter := 0 }
  | .rand _ => { v.accept i with draw := none, rngReq := true }
  | _ => v.accept i

theorem startOf_publicView (i : Instr) (s : State) : (startOf i s).publicView = s.publicView.start i := by
  cases i with
  | fromBe | fromLe => exact apply_ite State.publicView _ _ _
  | _ => rfl

/-- What shows of `turnOf`: an inversion counts its iterations, and a sampling goes by the draw, which is public. -/
def PublicView.turn (i : Instr) (v : PublicView) : PublicView :=
  match i with
  | .toBe _ | .toLe _ => { v.complete with bufLen := BitVec.ofNat 16 v.cfg.nb }
  | .inv _ _ => if v.iter < v.cfg.nIter then { v with iter := v.iter + 1 } else v.complete
  | .rand _ =>
    match v.draw with
    | none => v
    | some .fail => { v.complete with draw := none, errRng := true }
    | some (.bytes b) =>
      if beInt b < v.cfg.P then { v.complete with draw := none } else { v with draw := none, rngReq := true }
  | _ => v.complete

theorem iterate_publicView (s : State) : (iterate s).publicView = { s.publicView with iter := s.iter + 1 } := by
  unfold iterate
  split <;> rfl

theorem turnOf_publicView (i : Instr) (o : Operands) (s : State) :
    (turnOf i o s).publicView = s.publicView.turn i := by
  cases i with
  | inv rd rs1 =>
    rw [turnOf, turnInversion, apply_ite State.publicView, iterate_publicView]
    rfl
  | rand rd =>
    have hdraw : s.publicView.draw = s.draw := rfl
    rw [turnOf, turnSampling, PublicView.turn, hdraw]
    rcases s.draw with _ | b | _
    · rfl
    · exact apply_ite State.publicView (beInt b < s.cfg.P) _ _
    · rfl
  | _ => rfl

/-- What shows of `State.issue` (R107). -/
def PublicView.issue (w : Word) (v : PublicView) : PublicView :=
  if v.inFlight.isSome then { v with errBusy := true }
  else
    match decode w with
    | none => { v with errIllegal := true, done := true }
    | some i => v.start i

theorem inFlight_isSome (s : State) : s.publicView.inFlight.isSome = s.busy := Option.isSome_map

theorem issue_view (w : Word) (s : State) : (s.issue w).view = .next (s.publicView.issue w) := by
  by_cases hl : s.latch = none
  · rw [PublicView.issue, inFlight_isSome, not_busy_of_latch hl]
    cases hd : decode w with
    | none => rw [issue_illegal hl hd]; rfl
    | some i => rw [issue_legal hl hd, exec_idle i hl, Result.view, startOf_publicView]; rfl
  · rw [PublicView.issue, inFlight_isSome, busy_of_latch hl, issue_busy w hl]
    rfl

/-- What shows of a reset of the block (R121, R122). -/
def PublicView.blockReset (v : PublicView) : PublicView :=
  { (State.resetOf v.cfg).publicView with rstN := v.rstN, events := v.events, free := v.free }

/-- What shows of a write of a register, `rst_n` high. -/
def PublicView.write (r : BusReg) (w : Word) (v : PublicView) : PublicView :=
  match r with
  | .cmd => v.issue w
  | .ctrl => if w.getLsbD 0 then v.blockReset else { v with ie := w.getLsbD 1 }
  | .status =>
    { v with
      done := w1c v.done (w.getLsbD 1)
      errIllegal := w1c v.errIllegal (w.getLsbD 8)
      errLen := w1c v.errLen (w.getLsbD 9)
      errBusy := w1c v.errBusy (w.getLsbD 10)
      errRng := w1c v.errRng (w.getLsbD 11) }
  | .bufLen => if v.inFlight.isSome then { v with errBusy := true } else { v with bufLen := w.setWidth 16 }
  | .bufw _ | .intw _ => if v.inFlight.isSome then { v with errBusy := true } else v
  | .id | .param0 | .param1 | .param2 | .reserved => v

theorem writeReg_publicView {r : BusReg} (w : Word) (s : State) (hr : r ≠ .cmd) :
    (s.writeReg r w).publicView = s.publicView.write r w := by
  cases r with
  | cmd => exact absurd rfl hr
  | ctrl => exact apply_ite State.publicView _ _ _
  | bufLen | intw j => rw [PublicView.write, inFlight_isSome]; exact apply_ite State.publicView _ _ _
  | bufw k =>
    rw [PublicView.write, inFlight_isSome, State.writeReg, writeBufWord_eq]; exact apply_ite State.publicView _ _ _
  | _ => rfl

theorem writeAccess_view (r : BusReg) (w : Word) (s : State) :
    (s.writeAccess r w).view = .next (if s.rstN = false then s.publicView else s.publicView.write r w) := by
  by_cases hn : s.rstN = false
  · rw [writeAccess_reset r w hn, if_pos hn]; rfl
  · have hr : s.rstN = true := by simpa using hn
    rw [if_neg hn]
    by_cases hc : r = .cmd
    · rw [hc, writeAccess_cmd w hr]
      exact issue_view w { s with resp := some .ack }
    · rw [writeAccess_reg w hr hc]
      exact congrArg _ (writeReg_publicView w { s with resp := some .ack } hc)

/-- What shows of a read: only that a free value was used (log 5). -/
def PublicView.read (r : BusReg) (v : PublicView) : PublicView :=
  if v.rstN = false then v
  else if v.inFlight.isSome && r.isWindow then { v with free := v.free + 1 }
  else v

theorem readAccess_publicView (r : BusReg) (s : State) : (s.readAccess r).publicView = s.publicView.read r := by
  rw [PublicView.read, inFlight_isSome, State.readAccess]
  simp only [apply_ite State.publicView]
  rfl

/-- What shows of an access. -/
def PublicView.hostAccess (a : HostAccess) (v : PublicView) : Host.Outcome PublicView Fault Refusal :=
  let s := State.resetOf v.cfg
  match a with
  | .read addr bytes =>
    if s.inWindow addr = false then .fault .outsideWindow
    else if s.aligned addr bytes = false then .next v
    else .next (v.read (busReg (addr - v.cfg.base)))
  | .write addr bytes w =>
    if s.inWindow addr = false then .fault .outsideWindow
    else if s.aligned addr bytes = false then .next v
    else .next (if v.rstN = false then v else v.write (busReg (addr - v.cfg.base)) w)

theorem hostAccess_view (a : HostAccess) (s : State) : (s.hostAccess a).view = s.publicView.hostAccess a := by
  cases a with
  | read addr bytes =>
    rw [State.hostAccess, PublicView.hostAccess, ← readAccess_publicView]
    simp only [apply_ite Result.view]; rfl
  | write addr bytes w =>
    simp only [State.hostAccess, apply_ite Result.view, writeAccess_view]; rfl

/-- What shows of a turn of the core. -/
def PublicView.coreTurn (v : PublicView) : PublicView :=
  if v.rstN = false then v
  else
    match v.inFlight with
    | none => v
    | some i => v.turn i

theorem coreTurn_view (s : State) : s.coreTurn.view = .next s.publicView.coreTurn := by
  have hn : s.publicView.rstN = s.rstN := rfl
  have hi : s.publicView.inFlight = s.latch.map (·.instr) := rfl
  rw [PublicView.coreTurn, hn, hi]
  unfold State.coreTurn
  split
  · rfl
  · cases hl : s.latch with
    | none => rfl
    | some l => exact (congrArg _ (exec_turn l.instr hl)).trans (congrArg _ (turnOf_publicView l.instr l.src s))

/-- What shows of an answer of the randomness source. -/
def PublicView.rngAnswer (a : RngAnswer) (v : PublicView) : Host.Outcome PublicView Fault Refusal :=
  if v.rstN = false || v.rngReq = false then .next v
  else
    match a with
    | .fail => .next { v with draw := some .fail, rngReq := false }
    | .bytes b =>
      if b.length = v.cfg.nb then .next { v with draw := some (.bytes b), rngReq := false } else .fault .malformedAnswer

theorem rngAnswer_view (a : RngAnswer) (s : State) : (s.rngAnswer a).view = s.publicView.rngAnswer a := by
  unfold State.rngAnswer
  cases a with
  | fail => exact apply_ite Result.view _ _ _
  | bytes b => simp only [apply_ite Result.view]; rfl

/-- What shows of an event. -/
def PublicView.perform (e : Event) (v : PublicView) : Host.Outcome PublicView Fault Refusal :=
  match e with
  | .host a => v.hostAccess a
  | .core => .next v.coreTurn
  | .rng a => v.rngAnswer a
  | .rstN true => .next { v with rstN := true }
  | .rstN false => .next { v.blockReset with rstN := false }

theorem perform_view (e : Event) (s : State) : (s.perform e).view = s.publicView.perform e := by
  cases e with
  | host a => exact hostAccess_view a s
  | core => exact coreTurn_view s
  | rng a => exact rngAnswer_view a s
  | rstN level => cases level <;> rfl

/-- What shows of a step. -/
def PublicView.step (v : PublicView) : Host.Outcome PublicView Fault Refusal :=
  if v.cfg.ok then
    match v.events with
    | [] => .next v.coreTurn
    | e :: es => ({ v with events := es } : PublicView).perform e
  else .refused .invalidConfiguration

/-- The view after a step is a function of the view before it. -/
theorem step_view (s : State) : Result.view (step s) = s.publicView.step := by
  have he : s.publicView.events = s.events := rfl
  rw [Machine.step, apply_ite Result.view, PublicView.step, State.advance, he]
  cases s.events with
  | nil => rw [coreTurn_view]; rfl
  | cons e es => rw [perform_view]; rfl

/-- Runs of two machines with one view show the same. -/
theorem runSteps_view (k : Nat) {s t : State} (h : s.publicView = t.publicView) :
    (runSteps k s).view = (runSteps k t).view := by
  induction k generalizing s t with
  | zero => exact congrArg Host.Outcome.next h
  | succ k ih =>
    have hstep : Result.view (step s) = Result.view (step t) := by rw [step_view, step_view, h]
    rcases Result.view_eq hstep with ⟨s', t', hs, ht, h'⟩ | ⟨r, hs, ht⟩ | ⟨r, hs, ht⟩ <;>
      simp only [runSteps, hs, ht]
    exact ih h'

/-- Settles O60: a run shows a function of what its first state shows. That function is given the draws of the randomness
source too, so the absence of a `RAND` is not needed. -/
theorem timingDoesNotDependOnSecrets : Obligations.TimingDoesNotDependOnSecrets := by
  intro k s t h _
  refine (Result.view_eq (runSteps_view k h)).imp_left ?_
  rintro ⟨s', t', hs, ht, h'⟩
  have hirq : s'.irq = t'.irq := congrArg (fun v : PublicView => v.done && v.ie) h'
  have hbusy : s'.busy = t'.busy := by rw [← inFlight_isSome, h', inFlight_isSome]
  exact ⟨s', t', hs, ht, h', hirq, hbusy⟩

/-! ## Host accesses while a command is in flight (R126 to R128) -/

/-- A write that is answered is a bus error, or the 32-bit write of the register at its offset. -/
theorem hostAccess_write_cases {s t : State} {addr bytes : Nat} {v : Word}
    (h : s.hostAccess (.write addr bytes v) = .next t) :
    t = { s with resp := some .busError } ∨
    ∃ off, addr = s.cfg.base + off ∧ bytes = 4 ∧ s.writeAccess (busReg off) v = .next t := by
  simp only [State.hostAccess] at h
  split at h
  · cases h
  next hw =>
  split at h
  · cases h; exact .inl rfl
  next ha =>
  simp only [State.inWindow, State.aligned, Bool.and_eq_false_iff, decide_eq_false_iff_not, not_or, not_not] at hw ha
  exact .inr ⟨addr - s.cfg.base, by omega, ha.1, h⟩

/-- `s` with all that a host access can write while a command is in flight taken from `t`: `DONE`, the error bits, `IE`,
the response and the count of free values. -/
def State.withAnswerOf (s t : State) : State :=
  { s with
    done := t.done, errIllegal := t.errIllegal, errLen := t.errLen, errBusy := t.errBusy, errRng := t.errRng, ie := t.ie
    resp := t.resp, free := t.free }

/-- While a command is in flight, a write that is no soft reset writes nothing else. -/
theorem writeAccess_busy_frame {s t : State} {r : BusReg} {v : Word} (hr : s.rstN = true) (hl : s.latch ≠ none)
    (hv : r = .ctrl → v.getLsbD 0 = false) (h : s.writeAccess r v = .next t) :
    t = s.withAnswerOf t := by
  have dropped (hd : r = .cmd ∨ r = .bufLen ∨ (∃ k, r = .bufw k) ∨ (∃ j, r = .intw j)) :
      t = { s with resp := some .ack, errBusy := true } := by
    cases (writeAccess_busy v hr hl hd).symm.trans h; rfl
  have written (hc : r ≠ .cmd) : t = ({ s with resp := some .ack } : State).writeReg r v := by
    cases (writeAccess_reg v hr hc).symm.trans h; rfl
  cases r with
  | cmd => rw [dropped (.inl rfl)]; rfl
  | bufLen => rw [dropped (.inr (.inl rfl))]; rfl
  | bufw k => rw [dropped (.inr (.inr (.inl ⟨k, rfl⟩)))]; rfl
  | intw j => rw [dropped (.inr (.inr (.inr ⟨j, rfl⟩)))]; rfl
  | ctrl => rw [written nofun, State.writeReg, writeCtrl_ie (hv rfl)]; rfl
  | status => rw [written nofun]; rfl
  | id | param0 | param1 | param2 | reserved => rw [written nofun]; rfl

/-- While a command is in flight, an access that is no soft reset writes nothing else. -/
theorem hostAccess_busy_frame {s t : State} {a : HostAccess} (hr : s.rstN = true) (hl : s.latch ≠ none)
    (hv : ∀ v, a = .write (s.cfg.base + 0x010) 4 v → v.getLsbD 0 = false) (h : s.hostAccess a = .next t) :
    t = s.withAnswerOf t := by
  cases a with
  | read addr bytes => rw [hostAccess_read_frame h]; rfl
  | write addr bytes v =>
    rcases hostAccess_write_cases h with e | ⟨off, rfl, rfl, hw⟩
    · rw [e]; rfl
    · exact writeAccess_busy_frame hr hl (fun hc => hv v (by rw [busReg_ctrl hc])) hw

/-- Settles O9: what an access writes while a command is in flight is nothing that the command reads or writes. -/
theorem hostCannotDisturbTheCommandInFlight : Obligations.HostCannotDisturbTheCommandInFlight := by
  intro s t a hr hl hstep hv
  obtain ⟨hok, -⟩ := step_cases hstep
  rw [hostAccess_busy_frame hr hl hv ((stepOn_eq s (.host a) hok).symm.trans hstep)]
  exact ⟨rfl, rfl, rfl, rfl, rfl, rfl, rfl, rfl, rfl, rfl, rfl, rfl⟩

/-- Settles O16: an offset of a window names a word of it, and such a word reads free while a command is in flight. -/
theorem windowReadsWhileBusyAreFree : Obligations.WindowReadsWhileBusyAreFree := by
  intro s off hok hr hl hlo ho h4
  have hwindow : (busReg off).isWindow = true := by
    rcases busReg_window h4 hlo ho with ⟨k, -, -, hreg⟩ | ⟨j, -, -, hreg⟩ <;> rw [hreg] <;> rfl
  rw [stepOn_readFrom s hok ho h4, readAccess_free hr hl hwindow]

/-! ## The two resets (R121, R122) -/

/-- Settles O19: a write of `CTRL` is a reset or a write of `IE`, as bit 0 says. -/
theorem softResetThroughControl : Obligations.SoftResetThroughControl := by
  intro s v hok hr
  have write := stepOn_writeTo_reg v hok hr (off := 0x010) (by norm_num) (by norm_num) (r := .ctrl) rfl nofun
  refine ⟨fun hv => ⟨_, write, ?_⟩, fun hv => write.trans (congrArg _ (writeCtrl_ie hv))⟩
  rw [State.writeReg, writeCtrl_srst hv]
  exact ⟨atReset_blockReset { s with resp := some .ack } s.rstN, rfl, hr, rfl, rfl⟩

theorem rngAnswer_reset {s : State} (a : RngAnswer) (hr : s.rstN = false) : s.rngAnswer a = .next s :=
  if_pos (by simp [hr])

theorem coreTurn_reset {s : State} (hr : s.rstN = false) : s.coreTurn = .next s := if_pos hr

/-- Settles O20: the pin driven low is a reset of the block; each event while it is low; and the pin driven high leaves
the block as it is, where an idle block takes a command. -/
theorem hardResetHoldsTheBlock : Obligations.HardResetHoldsTheBlock := by
  refine ⟨fun s hok => ⟨_, stepOn_eq s _ hok, atReset_blockReset s false, rfl, rfl, rfl⟩,
    fun s off v a hok hr h4 ho => ?_, fun s w i hok _ hl hd => ⟨stepOn_eq s _ hok,
      stepOn_command_legal (s := { s with rstN := true }) hok rfl hl hd⟩⟩
  refine ⟨?_, fun hlo => ?_, stepOn_readFrom_id hok (by norm_num) rfl, stepOn_readFrom_id hok (by norm_num) rfl,
    stepOn_readFrom_id hok (by norm_num) rfl, stepOn_readFrom_id hok (by norm_num) rfl,
    (stepOn_eq s _ hok).trans (rngAnswer_reset a hr), (stepOn_eq s _ hok).trans (coreTurn_reset hr)⟩
  · rw [stepOn_writeTo s v hok ho h4, writeAccess_reset _ v hr]
  · rw [stepOn_readFrom s hok ho h4, readAccess_reset _ hr, readInReset_zero s hlo]

/-! ## The state a reset leaves (R124) -/

theorem leBytes_zero (n : Nat) : leBytes n 0 = List.replicate n 0 := by
  induction n with
  | zero => rfl
  | succ n ih => exact congrArg (List.cons 0) ih

theorem beBytes_zero (n : Nat) : beBytes n 0 = List.replicate n 0 := by
  rw [beBytes, leBytes_zero, List.reverse_replicate]

/-- Zero bytes written to an empty memory leave it empty. -/
theorem Memory.writeBytes_nil_zeros (n a : Nat) : Memory.writeBytes [] a (List.replicate n 0) = [] := by
  induction n generalizing a with
  | zero => rfl
  | succ n ih => exact ih (a + 1)

/-- After a reset the flags `VALID` and `RESULT` are 0 (R121). -/
theorem State.AtReset.flags {s : State} (h : s.AtReset) : s.valid = false ∧ s.result = false := by
  obtain ⟨-, -, -, -, hstatus, -⟩ := h
  have bit (k : Nat) : s.statusWord.getLsbD k = false := by rw [hstatus]; exact BitVec.getLsbD_zero
  exact ⟨(getLsbD_statusWord s 2).symm.trans (bit 2), (getLsbD_statusWord s 3).symm.trans (bit 3)⟩

/-- A configuration that fits has an encoding of at least one byte. -/
theorem nb_pos_of_fits {c : Config} (h : c.fits = true) : 0 < c.nb := by
  obtain ⟨hW, -⟩ := Config.fits_fields h
  rw [Config.nb]
  omega

/-- Settles O21: the commands run on registers that hold 0, an empty `BUF` and a `BUF_LEN` of 0. -/
theorem stateAfterReset : Obligations.StateAfterReset := by
  refine ⟨fun c => ⟨atReset_blockReset (State.resetOf c) true, rfl, rfl⟩, fun s h hfits => ?_⟩
  obtain ⟨hvalid, hresult⟩ := h.flags
  obtain ⟨hfe, hbuf, hlen, -, -, -, hirq, hl, -⟩ := h
  have hn : s.bufLen.toNat ≠ s.cfg.nb := by
    rw [hlen]
    exact (nb_pos_of_fits hfits).ne
  refine ⟨fun i => ⟨?_, _, runCommand_two (.isZero i) (o := srcOne i s) hl rfl, ?_⟩,
    fun i => ⟨_, runCommand_toBe i hl, toNat_ofNat_nb hfits, fun j => ?_⟩, ⟨hvalid, hresult⟩,
    fun rd rs1 rs2 => ⟨_, runCommand_two (.selr rd rs1 rs2) (o := srcTwoResult rs1 rs2 s) hl rfl, ?_⟩,
    fun rd => ⟨(exec_idle _ hl).trans (congrArg _ (startOf_wrongLength ⟨rd, .inl rfl⟩ hn)),
      (exec_idle _ hl).trans (congrArg _ (startOf_wrongLength ⟨rd, .inr rfl⟩ hn))⟩, hl, hirq⟩
  · rw [hfe, canon_zero]
  · exact decide_eq_true (hfe i)
  · have hstored : Memory.writeBytes s.buf 0 (beBytes s.cfg.nb (canon s.cfg (s.feAt i))) = [] := by
      rw [hbuf, hfe, canon_zero, beBytes_zero, Memory.writeBytes_nil_zeros]
    exact congrArg (Memory.read · j) hstored
  · have hchoice : ctSelect s.result (s.feAt rs1) (s.feAt rs2) = s.feAt rs1 := by rw [hresult]; rfl
    exact (feAt_setFE_same _ rd _).trans hchoice

end Sys2Proof.Machine
end
